-- ==== Sys2Proof/Word.lean ====
section
/-!
DEFINITION. Bytes and pixel words, the two units the guide counts in (00_scope 1.8, 11_memory_resident_formats).
-/
namespace Sys2Proof

/-- One byte, as the boot store, the table image and the sensor frames hold it. -/
abbrev Byte := BitVec 8

/-- A pixel word: 32 bits, little-endian, byte 0 blue, 1 green, 2 red, 3 alpha (11, "the pixel word"). -/
abbrev Pixel := BitVec 32

end Sys2Proof
end

