-- ==== Sys2Proof/Syntax.lean ====
section
/-!
DEFINITION. The commands of the Arzubel 7140: one constructor of `Instr` per row of spec/opcode_table.json, with the
operands the row's step takes from outside the part (01 R1, R3; 05 R80; 08 R153; 10 R173).
-/
namespace Sys2Proof

/-- The two upstream ports (00_scope 1.2). -/
inductive Port where
  | up0 | up1
  deriving DecidableEq, Repr

/-- A request's tag, 0 to 31 (R1). -/
abbrev Tag := Fin 32

/-- READ or WRITE (R1, R3). -/
inductive Kind where
  | read | write
  deriving DecidableEq, Repr

/-- A mask entry of a write: WRITE, or SKIP for a masked pixel (R1). -/
inductive MaskEntry where
  | write | skip
  deriving DecidableEq, Repr

/-- One pixel of a write: its word and its mask entry (R1). -/
structure WritePixel where
  word : Pixel
  mask : MaskEntry
  deriving DecidableEq, Repr

/-- What a request carries: a READ its count, a WRITE one word and one mask entry per pixel (R1, R3). -/
inductive Body where
  | read (count : Nat)
  | write (pixels : List WritePixel)
  deriving DecidableEq, Repr

/-- An upstream request (R1); its port is the port it is presented on. -/
structure Request where
  tag : Tag
  address : BitVec 32
  body : Body
  deriving DecidableEq, Repr

/-- The answer of frame memory to a downstream request: OK, with the words of a READ, or a memory error (R3).
The words of an OK answer to a WRITE are not looked at. -/
inductive Answer where
  | ok (data : List Pixel)
  | memoryError
  deriving DecidableEq, Repr

/-- The four record writers of the notice unit (R166). -/
inductive RecordWriter where
  | notice | status | response | counts
  deriving DecidableEq, Repr

/-- The four bytes of a sensor's reply frame (R179). -/
structure ReplyFrame where
  b0 : Byte
  b1 : Byte
  b2 : Byte
  b3 : Byte
  deriving DecidableEq, Repr

/-- The commands: one constructor per row of spec/opcode_table.json. -/
inductive Instr where
  /-- RESET_N_ASSERT (R171). -/
  | resetNAssert
  /-- RESET_N_RELEASE (R18). -/
  | resetNRelease
  /-- REQUEST_PRESENT (R6): port `p` presents request `r`. -/
  | requestPresent (p : Port) (r : Request)
  /-- SYSTEM_WINDOW_WRITE (R10): the presented request writes system window words with no behaviour of their own. -/
  | systemWindowWrite (p : Port) (r : Request)
  /-- TABLE_AREA_WRITE (R156): the presented request writes the table area. -/
  | tableAreaWrite (p : Port) (r : Request)
  /-- NOTICE_RECORD_WRITE (R165): the presented request writes the notice record. -/
  | noticeRecordWrite (p : Port) (r : Request)
  /-- NOTICE_RECORD_READ (R165): the response of the notice record read with tag `tag` is sent. -/
  | noticeRecordRead (p : Port) (tag : Tag)
  /-- INTAKE_WAIT_END (R8). -/
  | intakeWaitEnd (p : Port)
  /-- ARBITER_GRANT (R13); `pick` only chooses among NOTICE writes that became ready together (R166). -/
  | arbiterGrant (pick : RecordWriter)
  /-- FRAGMENT_ANSWER (R63). -/
  | fragmentAnswer (a : Answer)
  /-- FORWARDED_ANSWER (R9). -/
  | forwardedAnswer (a : Answer)
  /-- RESPONSE_SEND (R2): port `p` sends its ready response with tag `tag`. -/
  | responseSend (p : Port) (tag : Tag)
  /-- ROW_READ_ANSWER (R135). -/
  | rowReadAnswer (a : Answer)
  /-- ROW_WRITE_ANSWER (R137). -/
  | rowWriteAnswer (a : Answer)
  /-- DISCARDED_ANSWER (R152). -/
  | discardedAnswer (a : Answer)
  /-- LOADER_READ_ANSWER (R155). -/
  | loaderReadAnswer (a : Answer)
  /-- RECORD_WRITE_ANSWER (R166). -/
  | recordWriteAnswer (a : Answer)
  /-- RESPONSE_WRITE_ANSWER (R162). -/
  | responseWriteAnswer (a : Answer)
  /-- COUNTS_WRITE_ANSWER (R169). -/
  | countsWriteAnswer (a : Answer)
  /-- POLL_ROUND (R79): a round falls due. -/
  | pollRound
  /-- SENSOR_REPLY (R81, R179): the poll in progress meets reply frame `f`, whose start bit is first sampled `start` µs
  after the end of the poll frame. -/
  | sensorReply (start : Nat) (f : ReplyFrame)
  /-- REPLY_TIMEOUT (R81). -/
  | replyTimeout
  /-- SETTLE_TIMER_EXPIRY (R89). -/
  | settleTimerExpiry
  /-- FALLBACK_TIMER_EXPIRY (R92). -/
  | fallbackTimerExpiry
  /-- FRAME_START (R121): `elapsed` µs after the last timed command. -/
  | frameStart (elapsed : Nat)
  /-- LOSS_TIMER_EXPIRY (R120). -/
  | lossTimerExpiry
  /-- PUBLISH (R155): port `p` presents the command word with this sequence, code 0x01 and this argument. -/
  | publish (p : Port) (tag : Tag) (seq : Byte) (arg : BitVec 16)
  /-- FORCE (R158), code 0x02; the argument is the layout number. -/
  | force (p : Port) (tag : Tag) (seq : Byte) (arg : BitVec 16)
  /-- RELEASE (R94), code 0x03. -/
  | release (p : Port) (tag : Tag) (seq : Byte) (arg : BitVec 16)
  /-- REPORT (R159), code 0x04. -/
  | report (p : Port) (tag : Tag) (seq : Byte) (arg : BitVec 16)
  /-- RESTART (R160), code 0x0F. -/
  | restart (p : Port) (tag : Tag) (seq : Byte) (arg : BitVec 16)
  /-- BAD_COMMAND (R154): the command word carries the unknown code `code`. -/
  | badCommand (p : Port) (tag : Tag) (seq : Byte) (code : Byte) (arg : BitVec 16)
  /-- BOOT_HEAD_READ_END (R173): the 16 bytes clocked in. -/
  | bootHeadReadEnd (bytes : List Byte)
  /-- BOOT_BODY_READ_END (R173): the bytes clocked in, image length less 16 of them. -/
  | bootBodyReadEnd (bytes : List Byte)
  /-- BOOT_CHECK_END (R174); `first` is the port whose waiting request goes on first. -/
  | bootCheckEnd (first : Port)
  deriving DecidableEq, Repr

end Sys2Proof
end

