-- ==== Sys2Proof/Machine/Window.lean ====
section
/-!
DEFINITION. Upstream requests and the address windows of the intake (01 R1, R4, R5, R10).
-/
namespace Sys2Proof.Machine

/-- Number of pixels of a request (R1). -/
def bodyCount : Body → Nat
  | .read n => n
  | .write px => px.length

/-- READ or WRITE (R1). -/
def bodyKind : Body → Kind
  | .read _ => .read
  | .write _ => .write

/-- R1: the port carries counts of 1 to 64 pixels, so a request of another count cannot be presented. -/
def presentable (r : Request) : Bool :=
  decide (1 ≤ bodyCount r.body) && decide (bodyCount r.body ≤ 64)

/-- The unmasked pixels of a write with the byte address of each: pixel i is the word at `base + 4i` (R1). -/
def unmaskedWords (base : Nat) : List WritePixel → List (Nat × Pixel)
  | [] => []
  | p :: ps =>
    match p.mask with
    | .write => (base, p.word) :: unmaskedWords (base + 4) ps
    | .skip => unmaskedWords (base + 4) ps

/-- The unmasked words of a request; a READ writes none. -/
def writtenWords (r : Request) : List (Nat × Pixel) :=
  match r.body with
  | .read _ => []
  | .write px => unmaskedWords r.address.toNat px

/-- The windows of R4. -/
inductive Window where
  | raw
  | system
  | surface (k : Nat)
  deriving DecidableEq, Repr

/-- First byte of the aperture of surface k (R4). -/
def apertureBase (k : Nat) : Nat := 0x10000000 + k * 0x04000000

/-- R4: the window that an upstream byte address lies in, if any. -/
def windowOf (a : Nat) : Option Window :=
  if a ≤ 0x03FFFFFF then some .raw
  else if a ≤ 0x0400FFFF then some .system
  else if a ≤ 0x0FFFFFFF then none
  else if a ≤ 0x1FFFFFFF then some (.surface ((a - 0x10000000) / 0x04000000))
  else none

/-- Last byte of a window (R4). -/
def windowLast : Window → Nat
  | .raw => 0x03FFFFFF
  | .system => 0x0400FFFF
  | .surface k => apertureBase k + 0x03FFFFFF

/-- Last byte of a request: address + 4 × count − 1 (R5). -/
def lastByte (r : Request) : Nat := r.address.toNat + 4 * bodyCount r.body - 1

/-- R5: the window of a request that the intake does not refuse; `none` in each of the three cases of refusal. -/
def admittedWindow (r : Request) : Option Window :=
  match windowOf r.address.toNat with
  | none => none
  | some w =>
    if r.address.toNat % 4 ≠ 0 then none
    else if windowLast w < lastByte r then none
    else some w

/-- Byte address of the command word (R177). -/
def commandWordAddress : Nat := 0x04000000
/-- Byte address of the response record (R177). -/
def responseRecordAddress : Nat := 0x04000004
/-- Byte address of the notice record, one word (R178). -/
def noticeRecordAddress : Nat := 0x04000100
/-- Byte address of the status record (R178). -/
def statusRecordAddress : Nat := 0x04000200
/-- Byte address of the counts record (R178). -/
def countsRecordAddress : Nat := 0x04000300
/-- First byte of the table area (R10, R20). -/
def tableAreaBase : Nat := 0x04001000

/-- The unmasked word that a request writes at byte address `a`, if any. -/
def wordWrittenAt (r : Request) (a : Nat) : Option Pixel :=
  ((writtenWords r).find? (fun w => w.1 == a)).map Prod.snd

/-- R10: the write has an unmasked pixel in the table area, 0x0400_1000 to 0x0400_FFFF. -/
def writesTableArea (r : Request) : Bool :=
  (writtenWords r).any (fun w => decide (tableAreaBase ≤ w.1) && decide (w.1 ≤ 0x0400FFFF))

/-- R10: the write has an unmasked pixel in the notice record. -/
def writesNoticeRecord (r : Request) : Bool := (wordWrittenAt r noticeRecordAddress).isSome

/-- R10: the write has the command word's pixel unmasked. -/
def writesCommandWord (r : Request) : Bool := (wordWrittenAt r commandWordAddress).isSome

/-- A READ whose pixels hold the notice record; the position of the record's word in it (R10, R165). -/
def noticeReadPosition (r : Request) : Option Nat :=
  match r.body with
  | .write _ => none
  | .read n =>
    if r.address.toNat ≤ noticeRecordAddress ∧ noticeRecordAddress < r.address.toNat + 4 * n then
      some ((noticeRecordAddress - r.address.toNat) / 4)
    else none

/-- The request with which the host writes the command word (R153, R177): one unmasked pixel at 0x0400_0000 with the
sequence in byte 0, the code in byte 1 and the argument in bytes 2 and 3. -/
def commandRequest (tag : Tag) (seq code : Byte) (arg : BitVec 16) : Request :=
  { tag := tag, address := 0x04000000#32, body := .write [{ word := arg ++ code ++ seq, mask := .write }] }

end Sys2Proof.Machine
end

