-- ==== Sys2Proof/WellFormed.lean ====
section
/-!
DEFINITION. Which operands are a case of a command's row: the static checks, which no state enters.
-/
namespace Sys2Proof

open Sys2Proof.Machine

/-- R1: a request that a port can present. -/
abbrev Request.WellFormed (r : Request) : Prop := presentable r = true

/-- Rows that narrow REQUEST_PRESENT to one kind of write: a write the system window holds (R4, R5, R10). -/
abbrev Request.IsSystemWrite (r : Request) : Prop :=
  bodyKind r.body = .write ∧ admittedWindow r = some .system

/-- The codes of R154 that name a command. -/
def knownCodes : List Byte := [0x01, 0x02, 0x03, 0x04, 0x0F]

/-- The operands of a command are a case of its row. -/
abbrev Instr.WellFormed : Instr → Prop
  | .requestPresent _ r => r.WellFormed
  | .systemWindowWrite _ r =>
    r.WellFormed ∧ r.IsSystemWrite ∧ writesCommandWord r = false ∧ writesNoticeRecord r = false
      ∧ writesTableArea r = false
  | .tableAreaWrite _ r => r.WellFormed ∧ r.IsSystemWrite ∧ writesTableArea r = true
  | .noticeRecordWrite _ r => r.WellFormed ∧ r.IsSystemWrite ∧ writesNoticeRecord r = true
  | .badCommand _ _ _ code _ => code ∉ knownCodes
  | .bootHeadReadEnd bytes => bytes.length = 16
  | _ => True

end Sys2Proof
end

