-- ==== Sys2Proof/Decode.lean ====
section
/-!
DEFINITION. Words that spell a command. The table gives no row any bits: the part takes events, not instruction words
(log 5), so no word spells a command.
-/
namespace Sys2Proof

/-- The command that a word spells by the table's bits: none, since no row of the table has bits (log 5). -/
def decodeTableWord (_nbits _w : Nat) : Option Instr := none

end Sys2Proof
end

