-- ==== Sys2Proof/Config.lean ====
section
/-!
DEFINITION. What the spec leaves open and the model does not choose: opaque constants, which no proof can look into.
-/
namespace Sys2Proof.Config

/-- FREE VALUE (log 9). The level at which SPI_MOSI rests once a boot-store transaction has ended: R172 says what the
line carries inside a transaction and R171 what it holds while RESET_N is asserted, and no rule says what it holds
otherwise. Applied to `State.freeUses`, so that each rest has a level of its own. -/
opaque mosiRest : Nat → Bool

end Sys2Proof.Config
end

