-- ==== Sys2Proof/Machine/State.lean ====
section
/-!
DEFINITION. The state of the Arzubel 7140, block by block as 00_scope 1.3 divides the part, and the state right after
the release of RESET_N. Plain data: every field is a number, a name, a list or a record of them.
-/
namespace Sys2Proof.Machine

/-! ## Faults and refusals -/

/-- The part has no fault that stops it: every error of the guide is a result it reports (ADDRERR, MEMERR, a response
code, a FAILED tile) and goes on from. So no meaning raises a fault and the type has no constructor. -/
inductive Fault : Type
  deriving DecidableEq, Repr

/-- Why a command has no next state. But for `notModelled`, each names an event that cannot occur in the state it is
sent in: the rule says what must hold for the event to happen, so stopping is safe (log 2). -/
inductive Refusal where
  /-- A row of the table without a meaning; raised by `exec` alone. Safe: nothing can be proved of its effect. -/
  | notModelled (mnemonic : String)
  /-- The operands are not a case of the row: a count outside 1 to 64 "cannot be presented" (R1), or a request of
  another row's kind. Raised by the commands that present a request. Safe. -/
  | illFormed
  /-- RESET_N is asserted: the part takes nothing but the release (R18, log 8). Raised by every command but
  RESET_N_RELEASE. Safe. -/
  | heldInReset
  /-- RESET_N_RELEASE while RESET_N is not asserted. Safe. -/
  | resetNotAsserted
  /-- The port's intake place is not EMPTY, so the port presents no request (R6). Safe. -/
  | portStalled
  /-- No request waits in the intake place, or the cause of its wait has not passed (R8). Safe. -/
  | stillWaiting
  /-- No requester waits, or DN holds 48 requests in flight (R13, R14). Safe. -/
  | nothingToGrant
  /-- No request is in flight, or the oldest one in flight is not of this row's kind (R15). Safe. -/
  | answerNotNext
  /-- An OK answer to a READ with another number of words than the READ's count (R3). Safe. -/
  | malformedAnswer
  /-- The port has no such response ready, or another became ready before it (R2). Safe. -/
  | responseNotNext
  /-- No poll is in progress (R81). Safe. -/
  | noPoll
  /-- The timer is not running (R88, R91, R120). Safe. -/
  | timerNotRunning
  /-- The event would carry the clock past the due time of a running timer or past the latest end of an open poll, or
  would end a poll before the time the clock stands at (log 3). Safe. -/
  | outOfTimeOrder
  /-- The boot loader is not in the state the event ends, or the byte count is not the one asked for (R173). Safe. -/
  | bootNotThere
  deriving DecidableEq, Repr

/-! ## The layout table (Chapter 2) -/

/-- A surface descriptor (R22); width 0 marks the surface absent. -/
structure Surface where
  width : Nat
  height : Nat
  pitch : Nat
  fill : Pixel
  deriving DecidableEq, Repr

/-- A crease profile slot: peak code, half-distance, band half-width (R23). -/
structure CreaseSlot where
  peak : Nat
  half : Nat
  band : Nat
  deriving DecidableEq, Repr

/-- The two slots' names (R23). -/
inductive SlotName where
  | p0 | p1
  deriving DecidableEq, Repr

/-- Quarter turns clockwise from surface to panel (R25). -/
inductive Orient where
  | q0 | q1 | q2 | q3
  deriving DecidableEq, Repr

/-- A pane record (R25); all positions and sizes in tiles. -/
structure Pane where
  surface : Nat
  orient : Orient
  mirror : Bool
  u0 : Nat
  v0 : Nat
  w : Nat
  h : Nat
  x0 : Nat
  y0 : Nat
  deriving DecidableEq, Repr

/-- An angle window, both bounds included (R24). -/
structure AngleWindow where
  lo : Nat
  hi : Nat
  deriving DecidableEq, Repr

/-- A layout record; its pane count is the length of `panes`. The crease selections are NONE (`none`), P0 or P1 (R24). -/
structure LayoutRecord where
  number : Nat
  sel1 : Option SlotName
  sel2 : Option SlotName
  settleMs : Nat
  win1 : AngleWindow
  win2 : AngleWindow
  panes : List Pane
  deriving DecidableEq, Repr

/-- Notice acknowledge mode (R21). -/
inductive AckMode where
  | read | write
  deriving DecidableEq, Repr

/-- Edge mode of HINGE_CHANGE and PANEL_TIMING (R21). -/
inductive EdgeMode where
  | lossOnly | both
  deriving DecidableEq, Repr

/-- A layout table: the header fields of R21, the four surface descriptors, the two slots and the layout records in
table order (R20, R40). `checksum` is absent in the built-in table, which carries none (R44). -/
structure Table where
  version : Nat
  imageLength : Nat
  checksum : Option (BitVec 16)
  ackMode : AckMode
  hingeEdge : EdgeMode
  panelEdge : EdgeMode
  hysteresis : Nat
  fallbackMs : Nat
  pollMs : Nat
  report : Nat
  framePeriod : Nat
  enables : BitVec 10
  dark : Pixel
  surfaces : List Surface
  slot0 : CreaseSlot
  slot1 : CreaseSlot
  records : List LayoutRecord
  deriving DecidableEq, Repr

/-- Table source (R40). -/
inductive TableSource where
  | none | nvm | builtIn | memory
  deriving DecidableEq, Repr

/-- A crease context that is not NONE: the slot's name with its three values at the moment of copying (R42). -/
structure CreaseContext where
  slot : SlotName
  peak : Nat
  half : Nat
  band : Nat
  deriving DecidableEq, Repr

/-- A record copy (R42); its pane count is the length of `panes`, the rectangles of R26 are derived from each pane. -/
structure RecordCopy where
  number : Nat
  panes : List Pane
  crease1 : Option CreaseContext
  crease2 : Option CreaseContext
  deriving DecidableEq, Repr

/-! ## Places on the panel -/

/-- The two physical frame banks. -/
inductive Bank where
  | bank0 | bank1
  deriving DecidableEq, Repr

/-- A tile position, column and row counted in tiles. -/
structure Tile where
  col : Nat
  row : Nat
  deriving DecidableEq, Repr

/-- A physical tile named by bank and position (R17). -/
structure BankTile where
  bank : Bank
  tile : Tile
  deriving DecidableEq, Repr

/-! ## Upstream ports (Chapter 1) -/

/-- Response results (R2). -/
inductive Result where
  | okay | addrErr | memErr | aborted
  deriving DecidableEq, Repr

/-- An upstream response (R2); `data` is empty for a WRITE. -/
structure Response where
  tag : Tag
  result : Result
  data : List Pixel
  deriving DecidableEq, Repr

/-- Where a ready response comes from, which decides what its sending reports (R7, R10). -/
inductive Origin where
  /-- refused at intake (R5) -/
  | refused
  /-- answered ABORTED by RESTART (R19) -/
  | aborted
  /-- a surface request (R12) -/
  | surface
  /-- a forwarded raw bank or system window request (R9, R10) -/
  | forwarded (r : Request)
  deriving DecidableEq, Repr

/-- A response that is ready and not yet sent. -/
structure ReadyResponse where
  response : Response
  origin : Origin
  deriving DecidableEq, Repr

/-- The intake place (R8) with the request standing in it; `abort` is the mark of R19 on a request that RESTART
answers ABORTED once the earlier response with its tag has been sent. -/
inductive Place where
  | empty
  | waitTag (r : Request) (abort : Bool)
  | waitTable (r : Request)
  | waitHold (r : Request)
  | waitOrder (r : Request)
  deriving DecidableEq, Repr

/-- An entry of a path list (R11): a surface request, whose fragments stand in its context, or a forwarded request. -/
inductive PathEntry where
  | surface (tag : Tag)
  | forward (r : Request)
  deriving DecidableEq, Repr

/-- One upstream port: its intake place, outstanding tags, path list, ready responses (those that became ready
together in one group, groups oldest first) and the response it last sent. -/
structure PortState where
  place : Place
  tags : List Tag
  path : List PathEntry
  ready : List (List ReadyResponse)
  sent : Option Response
  deriving DecidableEq, Repr

/-- The name of an outstanding request: its port and tag. -/
abbrev Key := Port × Tag

/-! ## Remap unit (Chapter 3) -/

/-- Answer state of a fragment (R45). -/
inductive FragmentState where
  | notIssued | inFlight | ok | failed
  deriving DecidableEq, Repr

/-- A fragment (R45, R60): its pane index, first request pixel, downstream address and count, whether its run
descends, a WRITE's words in ascending address order, its answer state and, for a READ, the words returned. -/
structure Fragment where
  pane : Nat
  first : Nat
  address : Nat
  count : Nat
  descending : Bool
  data : List Pixel
  state : FragmentState
  got : List Pixel
  deriving DecidableEq, Repr

/-- Surface snapshot of a context: width, height and pitch; ABSENT is `none` at its use (R45). -/
structure Snapshot where
  width : Nat
  height : Nat
  pitch : Nat
  deriving DecidableEq, Repr

/-- A request context (R45). `pixelMap` holds, for a READ, ZERO (`none`) or the fragment and the position in it. -/
structure Context where
  port : Port
  tag : Tag
  kind : Kind
  count : Nat
  generation : BitVec 16
  record : RecordCopy
  bank : Bank
  snapshot : Option Snapshot
  fragments : List Fragment
  tiles : List BankTile
  pixelMap : List (Option (Nat × Nat))
  deriving DecidableEq, Repr

/-! ## Downstream port (Chapter 1) -/

/-- The five places of the arbiter (R13). -/
inductive Requester where
  | path (p : Port)
  | relocation
  | loader
  | notice
  deriving DecidableEq, Repr

/-- A downstream request (R3). -/
structure DnRequest where
  requester : Requester
  address : Nat
  body : Body
  deriving DecidableEq, Repr

/-- The two tile buffers (R132). -/
inductive BufferId where
  | tb0 | tb1
  deriving DecidableEq, Repr

/-- What an answer is handed to (R15). -/
inductive Owner where
  | fragment (p : Port) (tag : Tag) (index : Nat)
  | forward (p : Port) (r : Request)
  | row (b : BufferId)
  | loader
  | record (w : RecordWriter)
  deriving DecidableEq, Repr

/-- A request in flight; `stale` marks those in flight when RESET_N was asserted (R18). -/
structure InFlight where
  request : DnRequest
  owner : Owner
  stale : Bool
  deriving DecidableEq, Repr

/-- DN and its arbiter: the requests in flight, oldest first, and the last-granted pointer (R13, R14). -/
structure DnPort where
  inFlight : List InFlight
  lastGranted : Requester
  deriving DecidableEq, Repr

/-! ## Posture monitor (Chapter 5) -/

/-- The two hinges and their sensors. -/
inductive HingeId where
  | h1 | h2
  deriving DecidableEq, Repr

/-- Hinge state (R82). -/
inductive HingeState where
  | unknown | present | lost
  deriving DecidableEq, Repr

/-- One hinge: state, valid run, miss run (R82), history oldest first and filtered angle (R84). -/
structure Hinge where
  state : HingeState
  validRun : Nat
  missRun : Nat
  history : List Nat
  filtered : Nat
  deriving DecidableEq, Repr

/-- A poll in progress: the hinge polled, the poll frame sent, and when the frame ends (R80, R179). -/
structure Poll where
  hinge : HingeId
  frame : Byte
  frameEnd : Nat
  deriving DecidableEq, Repr

/-- The settle timer (R88); `due` in µs. -/
inductive SettleTimer where
  | idle
  | running (n : Nat) (due : Nat)
  | expired (n : Nat)
  deriving DecidableEq, Repr

/-- The fallback timer (R91); `due` in µs. -/
inductive FallbackTimer where
  | idle
  | running (due : Nat)
  | spent
  deriving DecidableEq, Repr

/-- The posture monitor. `roundDue` is when the next poll round falls due (µs), `period` the sensor poll period read at
the last round begun (ms, R79). -/
structure Monitor where
  h1 : Hinge
  h2 : Hinge
  poll : Option Poll
  roundDue : Nat
  period : Nat
  candidate : Option Nat
  settle : SettleTimer
  fallback : FallbackTimer
  override : Option Nat
  deriving DecidableEq, Repr

/-! ## Transition controller and frame timing monitor (Chapter 6) -/

/-- Controller states (R101). -/
inductive CtrlState where
  | loading | draining | relocating | flipWait | steady
  deriving DecidableEq, Repr

/-- Drain kind (R101). -/
inductive DrainKind where
  | commit | restart
  deriving DecidableEq, Repr

/-- The transition controller (R101). `frontBank` is the front bank and the level of SCAN_BANK. -/
structure Controller where
  state : CtrlState
  drainKind : DrainKind
  generation : BitVec 16
  active : Option RecordCopy
  target : Option RecordCopy
  old : Option RecordCopy
  slot : Option Nat
  oldWrites : List Key
  loadHold : Bool
  frontBank : Bank
  panelEnable : Bool
  deriving DecidableEq, Repr

/-- Panel timing state (R120). -/
inductive PanelTiming where
  | present | lost
  deriving DecidableEq, Repr

/-- The frame timing monitor (R120): state, due time of the loss timer (none once it has run out) and time of the last
FRAME_START, in µs. -/
structure FrameMonitor where
  panel : PanelTiming
  lossTimer : Option Nat
  lastStart : Option Nat
  deriving DecidableEq, Repr

/-! ## Relocation engine (Chapter 7) -/

/-- Fill kind (R125): SURFACE k with the index of the target pane that owns the tile, or DARK. -/
inductive FillKind where
  | surface (k : Nat) (pane : Nat)
  | dark
  deriving DecidableEq, Repr

/-- What a move carries (R125): source tile, index of the old pane that places the source, index of the target pane. -/
structure MoveSpec where
  source : Tile
  oldPane : Nat
  targetPane : Nat
  deriving DecidableEq, Repr

/-- An entry of the transition map (R125). -/
inductive TileState where
  | pendingMove (m : MoveSpec)
  | pendingFill (k : FillKind)
  | moving (m : MoveSpec) (b : BufferId)
  | filling (k : FillKind) (b : BufferId)
  | done
  | failed
  deriving DecidableEq, Repr

/-- Operation of a WRITING buffer (R132). -/
inductive TileOp where
  | move | fill
  deriving DecidableEq, Repr

/-- A READING buffer (R132, R135): tile, move, the bank named by SCAN_BANK at the take, row reads issued and answered,
the source rows answered so far, the abandon mark. -/
structure Reading where
  tile : Tile
  move : MoveSpec
  bank : Bank
  issued : Nat
  answered : Nat
  rows : List (List Pixel)
  abandon : Bool
  deriving DecidableEq, Repr

/-- A WRITING buffer (R132): tile, back bank, operation, the 40 destination rows, row writes issued and answered, the
failure mark. -/
structure Writing where
  tile : Tile
  bank : Bank
  op : TileOp
  rows : List (List Pixel)
  issued : Nat
  answered : Nat
  failure : Bool
  deriving DecidableEq, Repr

/-- A tile buffer (R132). -/
inductive TileBuffer where
  | empty
  | reading (r : Reading)
  | writing (w : Writing)
  | discarding (outstanding : Nat)
  deriving DecidableEq, Repr

/-- The relocation engine: transition map in raster order (R125), plan cursor (R130), promotion queue (R145), hold
queue (R142), tile buffers (R132) and the buffer that issued the last request (R133). -/
structure Engine where
  map : List TileState
  cursor : Nat
  promotion : List Tile
  hold : List Key
  tb0 : TileBuffer
  tb1 : TileBuffer
  lastIssuer : BufferId
  deriving DecidableEq, Repr

/-! ## Command block (Chapter 8) -/

/-- A table load (R155, R156, R160): the PUBLISH's sequence, the disturbance and read-failure marks, whether RESTART has
abandoned it, whether the first read is still unanswered, the bytes held, the image length once known, the reads still
to issue (address, count) and how many are in flight. -/
structure TableLoad where
  seq : Byte
  disturbed : Bool
  readFailed : Bool
  abandoned : Bool
  awaitingHead : Bool
  bytes : List Byte
  length : Nat
  toIssue : List (Nat × Nat)
  inFlight : Nat
  deriving DecidableEq, Repr

/-- The command block: last taken sequence (R153), the load running (R154), the shadow table and the table source it
owns (R40). -/
structure CommandBlock where
  lastSeq : Byte
  load : Option TableLoad
  shadow : Option Table
  source : TableSource
  deriving DecidableEq, Repr

/-! ## Notice unit (Chapter 9) -/

/-- States of the notice and status writers (R166). -/
inductive WriterState where
  | clean | due | inFlight | inFlightDue
  deriving DecidableEq, Repr

/-- Result of a command (R162). -/
inductive CommandResult where
  | done | busy | badCommand | badArgument | tableRejected | tableDisturbed
  deriving DecidableEq, Repr

/-- A response of the command block (R162). -/
structure HostResponse where
  seq : Byte
  result : CommandResult
  detail : BitVec 16
  deriving DecidableEq, Repr

/-- A counter with its saturated flag (R168). -/
structure Counter where
  value : Nat
  saturated : Bool
  deriving DecidableEq, Repr

/-- The twelve counters, in the order of R168. -/
structure Counters where
  clipped : Counter
  addressErrors : Counter
  memoryErrors : Counter
  held : Counter
  promotions : Counter
  moved : Counter
  filled : Counter
  failed : Counter
  replacements : Counter
  misses : Counter
  clamps : Counter
  transitions : Counter
  deriving DecidableEq, Repr

/-- A counts write that waits: the values and flags it carries and the sequences of the REPORTs it answers (R169). -/
structure CountsWrite where
  counters : Counters
  reports : List Byte
  deriving DecidableEq, Repr

/-- A counts write in flight: the REPORTs in progress, and the mark of R170 on one in flight at RESTART. -/
structure CountsFlight where
  reports : List Byte
  overtaken : Bool
  deriving DecidableEq, Repr

/-- The notice unit. Bit i of `set` is set when kind i of R178 is pending. `readyQueue` holds the writers whose writes
are ready in the order they became ready, those ready together in one group (R166); `hostWrites` the outstanding host
writes to the notice record (R166). -/
structure NoticeUnit where
  set : BitVec 10
  notify : Bool
  noticeWriter : WriterState
  statusWriter : WriterState
  responseNext : Option HostResponse
  responseBusy : Bool
  counters : Counters
  frameCount : Nat
  countsNext : Option CountsWrite
  countsBusy : Option CountsFlight
  readyQueue : List (List RecordWriter)
  hostWrites : List Key
  deriving DecidableEq, Repr

/-! ## Boot loader (Chapter 10) and pins -/

/-- Load states (R171). -/
inductive BootState where
  | readHead | readBody | check | finished
  deriving DecidableEq, Repr

/-- An SPI read transaction in progress: the four bytes sent (instruction and address, R172) and the byte count. -/
structure SpiRead where
  sent : List Byte
  count : Nat
  deriving DecidableEq, Repr

/-- The boot loader (R171). -/
structure BootLoader where
  state : BootState
  bytes : List Byte
  length : Option Nat
  spi : Option SpiRead
  deriving DecidableEq, Repr

/-- A line of a serial link at the grain of commands: driven to a level, released to its pull-up, or carrying the bits
of the exchange in progress. -/
inductive Line where
  | driven (level : Bool)
  | released
  | carrying
  deriving DecidableEq, Repr

/-- The pins of the two serial links and RESET_N (00_scope 1.4). -/
structure Pins where
  resetAsserted : Bool
  sensClk : Line
  sensDat : Line
  spiCsN : Line
  spiClk : Line
  spiMosi : Line
  deriving DecidableEq, Repr

/-! ## The whole part -/

/-- The Arzubel 7140. `now` is the time in µs since the release of RESET_N on which due times are measured;
`freeUses` picks the next free value; `pending` is the queue of commands that wait, front first. -/
structure State where
  up0 : PortState
  up1 : PortState
  dn : DnPort
  contexts : List Context
  monitor : Monitor
  ctrl : Controller
  frame : FrameMonitor
  engine : Engine
  cmd : CommandBlock
  notice : NoticeUnit
  boot : BootLoader
  pins : Pins
  now : Nat
  freeUses : Nat
  pending : List Instr
  deriving DecidableEq, Repr

/-! ## Reset -/

/-- R18: an upstream port after hardware reset. -/
def PortState.reset : PortState :=
  { place := .empty, tags := [], path := [], ready := [], sent := none }

/-- R97: a hinge after hardware reset. -/
def Hinge.reset : Hinge :=
  { state := .unknown, validRun := 0, missRun := 0, history := [], filtered := 360 }

/-- R97, R79: the posture monitor after hardware reset; the first round has begun, with the poll of H1 whose frame is
the byte 0x2C with a 1 below it (R179) and lasts 8 bits at 400 kHz (log 17). -/
def Monitor.reset : Monitor :=
  { h1 := Hinge.reset, h2 := Hinge.reset
    poll := some { hinge := .h1, frame := 0x59#8, frameEnd := 20 }
    roundDue := 5000, period := 5
    candidate := none, settle := .idle, fallback := .idle, override := none }

/-- R101: the transition controller after hardware reset. -/
def Controller.reset : Controller :=
  { state := .loading, drainKind := .commit, generation := 0, active := none, target := none, old := none
    slot := none, oldWrites := [], loadHold := false, frontBank := .bank0, panelEnable := false }

/-- R120, R124: the frame timing monitor after hardware reset; the loss timer is due 3 × 8333 µs after the release. -/
def FrameMonitor.reset : FrameMonitor :=
  { panel := .present, lossTimer := some 24999, lastStart := none }

/-- R150: the relocation engine after hardware reset. -/
def Engine.reset : Engine :=
  { map := List.replicate 4860 .done, cursor := 0, promotion := [], hold := []
    tb0 := .empty, tb1 := .empty, lastIssuer := .tb1 }

/-- R162, R40: the command block after hardware reset. -/
def CommandBlock.reset : CommandBlock :=
  { lastSeq := 0, load := none, shadow := none, source := .none }

/-- A counter at 0 with its flag clear (R170). -/
def Counter.zero : Counter := { value := 0, saturated := false }

/-- R170: all twelve counters at 0. -/
def Counters.zero : Counters :=
  { clipped := .zero, addressErrors := .zero, memoryErrors := .zero, held := .zero, promotions := .zero
    moved := .zero, filled := .zero, failed := .zero, replacements := .zero, misses := .zero
    clamps := .zero, transitions := .zero }

/-- R166, R170: the notice unit after hardware reset; the notice and status writers are DUE together. -/
def NoticeUnit.reset : NoticeUnit :=
  { set := 0, notify := false, noticeWriter := .due, statusWriter := .due, responseNext := none
    responseBusy := false, counters := Counters.zero, frameCount := 0, countsNext := none, countsBusy := none
    readyQueue := [[.notice, .status]], hostWrites := [] }

/-- R171, R173: the boot loader after hardware reset, with the head read of 16 bytes at offset 0 begun. -/
def BootLoader.reset : BootLoader :=
  { state := .readHead, bytes := [], length := none
    spi := some { sent := [0x03#8, 0#8, 0#8, 0#8], count := 16 } }

/-- The pins right after the release: both links are in use, by the first poll (R79) and the head read (R171). -/
def Pins.reset : Pins :=
  { resetAsserted := false, sensClk := .carrying, sensDat := .carrying
    spiCsN := .driven false, spiClk := .carrying, spiMosi := .carrying }

/-- The part right after the release of RESET_N at power-on: R18, R40, R43, R66, R97, R101, R124, R150, R162, R170,
R171; nothing is in flight on DN, and no command waits. -/
def State.reset : State :=
  { up0 := PortState.reset, up1 := PortState.reset
    dn := { inFlight := [], lastGranted := .notice }
    contexts := []
    monitor := Monitor.reset, ctrl := Controller.reset, frame := FrameMonitor.reset, engine := Engine.reset
    cmd := CommandBlock.reset, notice := NoticeUnit.reset, boot := BootLoader.reset, pins := Pins.reset
    now := 0, freeUses := 0, pending := [] }

end Sys2Proof.Machine
end

