-- ==== Sys2Proof/Machine/Operands.lean ====
section
/-!
DEFINITION. The forms in which values come in and go out: bytes of a pixel word, little-endian fields, the command
word, the sensor frames, answers, and the records the part writes (11, R177 to R179).
-/
namespace Sys2Proof.Machine

/-! ## Bytes of a pixel word (00_scope 1.8, little-endian) -/

/-- Byte i of a pixel word. -/
def pixelByte (p : Pixel) (i : Nat) : Byte := p.extractLsb' (8 * i) 8

/-- The four bytes of a pixel word in ascending address order. -/
def pixelBytes (p : Pixel) : List Byte := [pixelByte p 0, pixelByte p 1, pixelByte p 2, pixelByte p 3]

/-- The pixel word of bytes 0 to 3. -/
def pixelOfBytes (b0 b1 b2 b3 : Byte) : Pixel := b3 ++ b2 ++ b1 ++ b0

/-- The bytes of consecutive pixel words. -/
def bytesOfPixels (ps : List Pixel) : List Byte := ps.flatMap pixelBytes

/-! ## The command word (R177) -/

/-- Byte 0: the sequence. -/
def commandSeq (w : Pixel) : Byte := pixelByte w 0
/-- Byte 1: the command code. -/
def commandCode (w : Pixel) : Byte := pixelByte w 1
/-- Bytes 2 and 3: the argument. -/
def commandArg (w : Pixel) : BitVec 16 := w.extractLsb' 16 16

/-! ## The sensor frames (R179, R80) -/

/-- The fixed hinge address of a sensor (R80). -/
def hingeAddress : HingeId → BitVec 7
  | .h1 => 0x2C#7
  | .h2 => 0x2D#7

/-- The poll frame: the hinge address in bits 7 to 1 and a 1 in bit 0. -/
def pollFrame (h : HingeId) : Byte := hingeAddress h ++ 1#1

/-- Address echo: bits 6 to 0 of byte 0. -/
def replyEcho (f : ReplyFrame) : BitVec 7 := f.b0.extractLsb' 0 7

/-- Angle: byte 1 and bits 1 to 0 of byte 2, 0 to 1023. -/
def replyAngle (f : ReplyFrame) : Nat := f.b1.toNat + 256 * (f.b2.extractLsb' 0 2).toNat

/-- VALID: bit 7 of byte 2. -/
def replyValid (f : ReplyFrame) : Bool := f.b2.getLsbD 7

/-- The check byte equals the sum, modulo 256, of bytes 0 to 2. -/
def replyCheckHolds (f : ReplyFrame) : Bool := f.b3 == f.b0 + f.b1 + f.b2

/-! ## The SPI link (R172) -/

/-- What the loader sends to open a read transaction: 0x03 and three address bytes, most significant first. -/
def spiCommand (offset : Nat) : List Byte :=
  [0x03#8, BitVec.ofNat 8 (offset / 65536), BitVec.ofNat 8 (offset / 256), BitVec.ofNat 8 offset]

/-! ## Answers (R3) -/

/-- An OK answer to a READ returns as many words as the READ's count. -/
def answerFits (b : Body) (a : Answer) : Bool :=
  match b, a with
  | .read n, .ok data => data.length == n
  | _, _ => true

/-- The answer is OK. -/
def answerOk : Answer → Bool
  | .ok _ => true
  | .memoryError => false

/-- The words handed to the requester of a READ of `n` pixels: zeros after a memory error (R3). -/
def answerWords (n : Nat) : Answer → List Pixel
  | .ok data => data
  | .memoryError => List.replicate n 0

/-! ## Banks, ports and buffers -/

/-- Bank base (R50). -/
def bankBase : Bank → Nat
  | .bank0 => 0
  | .bank1 => 0x02000000

/-- The other bank. -/
def otherBank : Bank → Bank
  | .bank0 => .bank1
  | .bank1 => .bank0

/-- The other port. -/
def otherPort : Port → Port
  | .up0 => .up1
  | .up1 => .up0

/-- The other tile buffer. -/
def otherBuffer : BufferId → BufferId
  | .tb0 => .tb1
  | .tb1 => .tb0

/-- The state of a port. -/
def portOf (p : Port) (s : State) : PortState :=
  match p with
  | .up0 => s.up0
  | .up1 => s.up1

/-- The part with one port changed. -/
def setPort (p : Port) (q : PortState) (s : State) : State :=
  match p with
  | .up0 => { s with up0 := q }
  | .up1 => { s with up1 := q }

/-- The state of a tile buffer. -/
def bufferOf (b : BufferId) (e : Engine) : TileBuffer :=
  match b with
  | .tb0 => e.tb0
  | .tb1 => e.tb1

/-- The engine with one tile buffer changed. -/
def setBuffer (b : BufferId) (t : TileBuffer) (e : Engine) : Engine :=
  match b with
  | .tb0 => { e with tb0 := t }
  | .tb1 => { e with tb1 := t }

/-! ## Records the part writes (R177, R178) -/

/-- Result codes (R177). -/
def resultCode : CommandResult → Byte
  | .done => 0x00#8
  | .busy => 0x01#8
  | .badCommand => 0x02#8
  | .badArgument => 0x03#8
  | .tableRejected => 0x04#8
  | .tableDisturbed => 0x05#8

/-- The response record: sequence echo, result, detail (R177). -/
def responseWord (r : HostResponse) : Pixel := r.detail ++ resultCode r.result ++ r.seq

/-- The notice record: bit i is set when kind i is pending, bits 10 to 31 are 0 (R178). -/
def noticeWord (set : BitVec 10) : Pixel := set.setWidth 32

/-- Controller state codes (R178). -/
def ctrlCode : CtrlState → Byte
  | .loading => 0#8
  | .draining => 1#8
  | .relocating => 2#8
  | .flipWait => 3#8
  | .steady => 4#8

/-- Hinge state codes (R178). -/
def hingeCode : HingeState → Byte
  | .unknown => 0#8
  | .present => 1#8
  | .lost => 2#8

/-- Panel timing codes (R178). -/
def panelCode : PanelTiming → Byte
  | .present => 0#8
  | .lost => 1#8

/-- Table source codes (R178). -/
def sourceCode : TableSource → Byte
  | .none => 0#8
  | .nvm => 1#8
  | .builtIn => 2#8
  | .memory => 3#8

/-- Front bank field (R178). -/
def bankCode : Bank → Byte
  | .bank0 => 0#8
  | .bank1 => 1#8

/-- A number or none; none is written as 0xFF (R178). -/
def numberCode : Option Nat → Byte
  | none => 0xFF#8
  | some n => BitVec.ofNat 8 n

/-- The fields the status record reports (R167). -/
structure StatusFields where
  state : CtrlState
  generation : BitVec 16
  active : Option Nat
  target : Option Nat
  slot : Option Nat
  frontBank : Bank
  angle1 : Nat
  angle2 : Nat
  hinge1 : HingeState
  hinge2 : HingeState
  override : Option Nat
  panel : PanelTiming
  source : TableSource
  deriving DecidableEq, Repr

/-- The status fields as they stand. -/
def statusFields (s : State) : StatusFields :=
  { state := s.ctrl.state
    generation := s.ctrl.generation
    active := s.ctrl.active.map (·.number)
    target := s.ctrl.target.map (·.number)
    slot := s.ctrl.slot
    frontBank := s.ctrl.frontBank
    angle1 := s.monitor.h1.filtered
    angle2 := s.monitor.h2.filtered
    hinge1 := s.monitor.h1.state
    hinge2 := s.monitor.h2.state
    override := s.monitor.override
    panel := s.frame.panel
    source := s.cmd.source }

/-- The status record, four pixel words (R178). -/
def statusWords (f : StatusFields) : List Pixel :=
  [ f.generation ++ bankCode f.frontBank ++ ctrlCode f.state,
    numberCode f.override ++ numberCode f.slot ++ numberCode f.target ++ numberCode f.active,
    BitVec.ofNat 16 f.angle2 ++ BitVec.ofNat 16 f.angle1,
    sourceCode f.source ++ panelCode f.panel ++ hingeCode f.hinge2 ++ hingeCode f.hinge1 ]

/-- A saturated flag as one bit. -/
def flagBit (c : Counter) : BitVec 1 := BitVec.ofBool c.saturated

/-- The saturated flags, bit j − 1 for counter j, bits 12 to 15 zero (R178). -/
def flagBits (c : Counters) : BitVec 16 :=
  0#4 ++ flagBit c.transitions ++ flagBit c.clamps ++ flagBit c.misses ++ flagBit c.replacements
    ++ flagBit c.failed ++ flagBit c.filled ++ flagBit c.moved ++ flagBit c.promotions ++ flagBit c.held
    ++ flagBit c.memoryErrors ++ flagBit c.addressErrors ++ flagBit c.clipped

/-- Two counters in one pixel word, the lower-numbered in bytes 0 and 1. -/
def counterPair (lo hi : Counter) : Pixel := BitVec.ofNat 16 hi.value ++ BitVec.ofNat 16 lo.value

/-- The counts record, seven pixel words (R178). -/
def countsWords (c : Counters) : List Pixel :=
  [ counterPair c.clipped c.addressErrors, counterPair c.memoryErrors c.held, counterPair c.promotions c.moved,
    counterPair c.filled c.failed, counterPair c.replacements c.misses, counterPair c.clamps c.transitions,
    0#16 ++ flagBits c ]

/-- A downstream body that writes whole words, every mask entry WRITE (R60, R134, R178). -/
def writeAll (ps : List Pixel) : Body := .write (ps.map fun p => { word := p, mask := .write })

end Sys2Proof.Machine
end

