-- ==== Sys2Proof/Machine/Table.lean ====
section
/-!
DEFINITION. Table images and the layout table: byte layout (11 R176), the ten kinds of validation (02 R28 to R39), the
shadow table's look-ups, record copies (R42) and the built-in table (R44).
-/
namespace Sys2Proof.Machine

/-! ## Reading an image (R176) -/

/-- Byte `i` of an image as a number. -/
def byteAt (img : List Byte) (i : Nat) : Nat := (img.getD i 0).toNat

/-- Little-endian 16-bit field at byte `i`. -/
def half16At (img : List Byte) (i : Nat) : Nat := byteAt img i + 256 * byteAt img (i + 1)

/-- Pixel word at byte `i`. -/
def pixelAt (img : List Byte) (i : Nat) : Pixel :=
  pixelOfBytes (img.getD i 0) (img.getD (i + 1) 0) (img.getD (i + 2) 0) (img.getD (i + 3) 0)

/-- Format version (R176). -/
def imageVersion (img : List Byte) : Nat := half16At img 0
/-- Image length (R176). -/
def imageLength (img : List Byte) : Nat := half16At img 2
/-- Layout count, as stored (R176). -/
def imageLayoutCount (img : List Byte) : Nat := byteAt img 6

/-- Surface descriptor k, at 24 + 12k (R176). -/
def imageSurface (img : List Byte) (k : Nat) : Surface :=
  { width := half16At img (24 + 12 * k), height := half16At img (26 + 12 * k)
    pitch := half16At img (28 + 12 * k), fill := pixelAt img (32 + 12 * k) }

/-- Crease profile slot 0 (P0, at 72) or 1 (P1, at 76) (R176). -/
def imageSlot (img : List Byte) (i : Nat) : CreaseSlot :=
  { peak := byteAt img (72 + 4 * i), half := byteAt img (73 + 4 * i), band := byteAt img (74 + 4 * i) }

/-- Outcome of the FORMAT walk: the record that runs past the length, or the record positions and the end (R30). -/
inductive Walk where
  | overrun (record : Nat)
  | ended (positions : List Nat) (finish : Nat)
  deriving DecidableEq, Repr

/-- R30: the walk over `n` more records from position `pos`, the next having index `idx`; pane counts as stored. -/
def walkRecords (img : List Byte) (len : Nat) : (n pos idx : Nat) → Walk
  | 0, pos, _ => .ended [] pos
  | n + 1, pos, idx =>
    if len < pos + 16 then .overrun idx
    else
      let next := pos + 16 + 8 * byteAt img (pos + 1)
      if len < next then .overrun idx
      else
        match walkRecords img len n next (idx + 1) with
        | .overrun k => .overrun k
        | .ended ps e => .ended (pos :: ps) e

/-- The walk of a whole image: from byte 96, as many records as the layout count names (R30). -/
def walkImage (img : List Byte) : Walk := walkRecords img (imageLength img) (imageLayoutCount img) 96 0

/-- Positions of the layout records; meaningful once FORMAT has passed. -/
def recordPositions (img : List Byte) : List Nat :=
  match walkImage img with
  | .ended ps _ => ps
  | .overrun _ => []

/-! ## Fields of a record as stored (R176) -/

/-- Crease selection code of H1 (bits 0 to 1 of byte 2). -/
def selCode1 (img : List Byte) (pos : Nat) : Nat := byteAt img (pos + 2) % 4
/-- Crease selection code of H2 (bits 2 to 3 of byte 2). -/
def selCode2 (img : List Byte) (pos : Nat) : Nat := byteAt img (pos + 2) / 4 % 4
/-- Pane count as stored. -/
def paneCountAt (img : List Byte) (pos : Nat) : Nat := byteAt img (pos + 1)
/-- Position of pane `j` of the record at `pos`. -/
def panePos (pos j : Nat) : Nat := pos + 16 + 8 * j
/-- Quarter-turn code of the pane record at `q` (bits 0 to 2 of byte 1). -/
def orientCodeAt (img : List Byte) (q : Nat) : Nat := byteAt img (q + 1) % 8

/-- Orientation of a quarter-turn code; codes 4 to 7 are not valid and never pass validation. -/
def orientOfCode (c : Nat) : Orient :=
  match c with
  | 0 => .q0
  | 1 => .q1
  | 2 => .q2
  | _ => .q3

/-- Crease selection of a code; code 3 never passes validation. -/
def selOfCode (c : Nat) : Option SlotName :=
  match c with
  | 1 => some .p0
  | 2 => some .p1
  | _ => none

/-- The pane record at byte `q`. -/
def imagePane (img : List Byte) (q : Nat) : Pane :=
  { surface := byteAt img q
    orient := orientOfCode (orientCodeAt img q)
    mirror := decide (byteAt img (q + 1) / 8 % 2 = 1)
    u0 := byteAt img (q + 2), v0 := byteAt img (q + 3), w := byteAt img (q + 4), h := byteAt img (q + 5)
    x0 := byteAt img (q + 6), y0 := byteAt img (q + 7) }

/-- The panes of the record at `pos`, in pane order. -/
def imagePanes (img : List Byte) (pos : Nat) : List Pane :=
  (List.range (paneCountAt img pos)).map fun j => imagePane img (panePos pos j)

/-- The layout record at `pos`. -/
def imageRecord (img : List Byte) (pos : Nat) : LayoutRecord :=
  { number := byteAt img pos
    sel1 := selOfCode (selCode1 img pos), sel2 := selOfCode (selCode2 img pos)
    settleMs := half16At img (pos + 4)
    win1 := { lo := half16At img (pos + 6), hi := half16At img (pos + 8) }
    win2 := { lo := half16At img (pos + 10), hi := half16At img (pos + 12) }
    panes := imagePanes img pos }

/-- Edge mode of a header flag bit. -/
def edgeOfBit (b : Nat) : EdgeMode := if b = 1 then .both else .lossOnly

/-- The table that an image holds (R176). -/
def tableOfImage (img : List Byte) : Table :=
  { version := imageVersion img
    imageLength := imageLength img
    checksum := some (BitVec.ofNat 16 (half16At img 4))
    ackMode := if byteAt img 7 % 2 = 1 then .write else .read
    hingeEdge := edgeOfBit (byteAt img 7 / 2 % 2)
    panelEdge := edgeOfBit (byteAt img 7 / 4 % 2)
    hysteresis := byteAt img 8
    report := byteAt img 9
    fallbackMs := half16At img 10
    pollMs := half16At img 12
    enables := BitVec.ofNat 10 (half16At img 14)
    framePeriod := half16At img 16
    dark := pixelAt img 20
    surfaces := (List.range 4).map (imageSurface img)
    slot0 := imageSlot img 0, slot1 := imageSlot img 1
    records := (recordPositions img).map (imageRecord img) }

/-! ## Rectangles (R26) -/

/-- Physical width of a pane in tiles: `w` for Q0 and Q2, `h` for Q1 and Q3. -/
def paneWidth (p : Pane) : Nat :=
  match p.orient with
  | .q0 | .q2 => p.w
  | .q1 | .q3 => p.h

/-- Physical height of a pane in tiles. -/
def paneHeight (p : Pane) : Nat :=
  match p.orient with
  | .q0 | .q2 => p.h
  | .q1 | .q3 => p.w

/-- R26: the pane covers logical tile (u, v). -/
def paneCovers (p : Pane) (u v : Nat) : Bool :=
  decide (p.u0 ≤ u) && decide (u < p.u0 + p.w) && decide (p.v0 ≤ v) && decide (v < p.v0 + p.h)

/-- R26: the pane owns physical tile `t`. -/
def paneOwns (p : Pane) (t : Tile) : Bool :=
  decide (p.x0 ≤ t.col) && decide (t.col < p.x0 + paneWidth p)
    && decide (p.y0 ≤ t.row) && decide (t.row < p.y0 + paneHeight p)

/-- R39: the physical rectangles of two panes share a tile. -/
def panesOverlap (p q : Pane) : Bool :=
  decide (p.x0 < q.x0 + paneWidth q) && decide (q.x0 < p.x0 + paneWidth p)
    && decide (p.y0 < q.y0 + paneHeight q) && decide (q.y0 < p.y0 + paneHeight p)

/-! ## Validation (R28 to R39) -/

/-- Detail of an INVALID result (R29). -/
structure Detail where
  kind : Nat
  check : Nat
  first : Option Nat
  second : Option Nat
  deriving DecidableEq, Repr

/-- A check: its detail when it fails. -/
def failsIf (bad : Bool) (kind check : Nat) (first second : Option Nat) : Option Detail :=
  if bad then some { kind, check, first, second } else none

/-- The first failure of a list of checks (R28: validation stops at the first check that fails). -/
def firstFailure (cs : List (Option Detail)) : Option Detail := cs.findSome? id

/-- Checks 1 to 3 of FORMAT, which need only the format version and the image length (R28, R30). -/
def formatHeadFailure (img : List Byte) : Option Detail :=
  firstFailure
    [ failsIf (imageVersion img != 1) 1 1 none none,
      failsIf (decide (imageLength img < 120) || decide (1376 < imageLength img)) 1 2 none none,
      failsIf (imageLength img % 2 == 1) 1 3 none none ]

/-- Checks 4 and 5 of FORMAT (R30). -/
def formatWalkFailure (img : List Byte) : Option Detail :=
  match walkImage img with
  | .overrun k => some { kind := 1, check := 4, first := some k, second := none }
  | .ended _ e => failsIf (decide (e < imageLength img)) 1 5 none none

/-- R31: end-around-carry addition of a 16-bit word to a 16-bit running sum. -/
def endAroundAdd (s w : Nat) : Nat := if 0xFFFF < s + w then s + w - 0x10000 + 1 else s + w

/-- R31: the end-around-carry sum of the image's length/2 words. -/
def imageChecksum (img : List Byte) : Nat :=
  (List.range (imageLength img / 2)).foldl (fun s i => endAroundAdd s (half16At img (2 * i))) 0

/-- CHECKSUM (R31). -/
def checksumFailure (img : List Byte) : Option Detail := failsIf (imageChecksum img != 0xFFFF) 2 1 none none

/-- HEADER_RANGE (R32). -/
def headerFailure (img : List Byte) : Option Detail :=
  let t := tableOfImage img
  firstFailure
    [ failsIf (decide (40 < t.hysteresis)) 3 1 none none,
      failsIf (decide (t.fallbackMs < 100) || decide (10000 < t.fallbackMs)) 3 2 none none,
      failsIf (decide (t.pollMs < 2) || decide (20 < t.pollMs)) 3 3 none none,
      failsIf (decide (t.framePeriod < 4000) || decide (50000 < t.framePeriod)) 3 4 none none ]

/-- A length that is a multiple of 40 in 40 to 4080 (R22). -/
def surfaceSide (n : Nat) : Bool := n % 40 == 0 && decide (40 ≤ n) && decide (n ≤ 4080)

/-- SURFACE for surface k (R33). -/
def surfaceFailure (img : List Byte) (k : Nat) : Option Detail :=
  let s := imageSurface img k
  let present := s.width != 0
  firstFailure
    [ failsIf (present && !surfaceSide s.width) 4 1 (some k) none,
      failsIf (present && !surfaceSide s.height) 4 2 (some k) none,
      failsIf (present && (decide (s.pitch < s.width) || decide (4096 < s.pitch))) 4 3 (some k) none ]

/-- PROFILE for slot i (R34). -/
def profileFailure (img : List Byte) (i : Nat) : Option Detail :=
  let s := imageSlot img i
  firstFailure
    [ failsIf (s.half == 0 || decide (32 < s.half)) 5 1 (some i) none,
      failsIf (decide (60 < s.band)) 5 2 (some i) none ]

/-- LAYOUT_SET checks 2 to 6 for record `i` at `pos`, `earlier` being the numbers of the records before it (R35). -/
def layoutFailure (img : List Byte) (i pos : Nat) (earlier : List Nat) : Option Detail :=
  let n := byteAt img pos
  firstFailure
    [ failsIf (decide (15 < n)) 6 2 (some i) none,
      failsIf (i == 0 && n != 0) 6 3 (some i) none,
      failsIf (earlier.contains n) 6 4 (some i) none,
      failsIf (paneCountAt img pos == 0 || decide (8 < paneCountAt img pos)) 6 5 (some i) none,
      failsIf (selCode1 img pos == 3 || selCode2 img pos == 3) 6 6 (some i) none ]

/-- WINDOW for record `i` (R36). -/
def windowFailure (r : LayoutRecord) (i : Nat) : Option Detail :=
  firstFailure
    [ failsIf (decide (720 < r.win1.lo) || decide (720 < r.win1.hi)) 7 1 (some i) none,
      failsIf (decide (r.win1.hi < r.win1.lo)) 7 2 (some i) none,
      failsIf (decide (720 < r.win2.lo) || decide (720 < r.win2.hi)) 7 3 (some i) none,
      failsIf (decide (r.win2.hi < r.win2.lo)) 7 4 (some i) none ]

/-- SETTLE for record `i` (R37). -/
def settleFailure (r : LayoutRecord) (i : Nat) : Option Detail :=
  failsIf (decide (r.settleMs < 10) || decide (5000 < r.settleMs)) 8 1 (some i) none

/-- PANE for pane `j` of record `i`, whose pane record lies at `q` (R38). -/
def paneFailure (img : List Byte) (i j q : Nat) : Option Detail :=
  let p := imagePane img q
  let s := imageSurface img p.surface
  firstFailure
    [ failsIf (decide (3 < p.surface) || s.width == 0) 9 1 (some i) (some j),
      failsIf (decide (3 < orientCodeAt img q)) 9 2 (some i) (some j),
      failsIf (p.w == 0 || p.h == 0) 9 3 (some i) (some j),
      failsIf (decide (s.width / 40 < p.u0 + p.w) || decide (s.height / 40 < p.v0 + p.h)) 9 4 (some i) (some j),
      failsIf (decide (81 < p.x0 + paneWidth p) || decide (60 < p.y0 + paneHeight p)) 9 5 (some i) (some j) ]

/-- OVERLAP for pane `j` of record `i` against the panes before it (R39). -/
def overlapFailure (panes : List Pane) (i j : Nat) : Option Detail :=
  match panes[j]? with
  | none => none
  | some p => failsIf ((panes.take j).any fun q => panesOverlap q p) 10 1 (some i) (some j)

/-- The records of an image with their indices. -/
def indexedPositions (img : List Byte) : List (Nat × Nat) := (recordPositions img).zipIdx.map fun p => (p.2, p.1)

/-- LAYOUT_SET (R35). -/
def layoutSetFailure (img : List Byte) : Option Detail :=
  firstFailure
    (failsIf (decide (16 < imageLayoutCount img)) 6 1 none none ::
      (indexedPositions img).map fun ip =>
        layoutFailure img ip.1 ip.2 (((recordPositions img).take ip.1).map (byteAt img)))

/-- PANE over every pane of every record (R38). -/
def paneSetFailure (img : List Byte) : Option Detail :=
  firstFailure ((indexedPositions img).flatMap fun ip =>
    (List.range (paneCountAt img ip.2)).map fun j => paneFailure img ip.1 j (panePos ip.2 j))

/-- OVERLAP over every record (R39). -/
def overlapSetFailure (img : List Byte) : Option Detail :=
  firstFailure ((indexedPositions img).flatMap fun ip =>
    (List.range (paneCountAt img ip.2)).map fun j => overlapFailure (imagePanes img ip.2) ip.1 j)

/-- R28: validation of an image: `none` is VALID, otherwise the detail of the first check that fails, kind by kind in
the order FORMAT, CHECKSUM, HEADER_RANGE, SURFACE, PROFILE, LAYOUT_SET, WINDOW, SETTLE, PANE, OVERLAP. -/
def validate (img : List Byte) : Option Detail :=
  (formatHeadFailure img).or <|
  (formatWalkFailure img).or <|
  (checksumFailure img).or <|
  (headerFailure img).or <|
  (firstFailure ((List.range 4).map (surfaceFailure img))).or <|
  (firstFailure ((List.range 2).map (profileFailure img))).or <|
  (layoutSetFailure img).or <|
  (firstFailure ((indexedPositions img).map fun ip => windowFailure (imageRecord img ip.2) ip.1)).or <|
  (firstFailure ((indexedPositions img).map fun ip => settleFailure (imageRecord img ip.2) ip.1)).or <|
  (paneSetFailure img).or (overlapSetFailure img)

/-- Index value of a detail (R177): 511 for none, the first index alone, or 256 + 8 × first + second. -/
def detailIndex (d : Detail) : Nat :=
  match d.first, d.second with
  | some i, some j => 256 + 8 * i + j
  | some i, none => i
  | none, _ => 511

/-- The 16-bit detail of TABLE_REJECTED (R177). -/
def packDetail (d : Detail) : BitVec 16 := BitVec.ofNat 16 (d.kind + 16 * d.check + 128 * detailIndex d)

/-- R157: the detail of a load whose bytes could not be read: kind 0, check 0, both indices none. -/
def unreadableDetail : Detail := { kind := 0, check := 0, first := none, second := none }

/-! ## Look-ups and record copies -/

/-- An absent surface (R22). -/
def absentSurface : Surface := { width := 0, height := 0, pitch := 0, fill := 0 }

/-- Surface descriptor k of a table; beyond the four, absent. -/
def tableSurface (t : Table) (k : Nat) : Surface := t.surfaces.getD k absentSurface

/-- The record of a table that carries layout number `n`. -/
def tableRecord (t : Table) (n : Nat) : Option LayoutRecord := t.records.find? (fun r => r.number == n)

/-- The crease context a copy carries for a selection (R42). -/
def creaseContext (t : Table) : Option SlotName → Option CreaseContext
  | none => none
  | some .p0 => some { slot := .p0, peak := t.slot0.peak, half := t.slot0.half, band := t.slot0.band }
  | some .p1 => some { slot := .p1, peak := t.slot1.peak, half := t.slot1.half, band := t.slot1.band }

/-- R42: a copy of a layout record of the table. -/
def copyRecord (t : Table) (r : LayoutRecord) : RecordCopy :=
  { number := r.number, panes := r.panes, crease1 := creaseContext t r.sel1, crease2 := creaseContext t r.sel2 }

/-- Crease contexts agree: both NONE, or the same three values; slot names do not enter (R42). -/
def sameCrease (a b : Option CreaseContext) : Bool :=
  match a, b with
  | none, none => true
  | some x, some y => x.peak == y.peak && x.half == y.half && x.band == y.band
  | _, _ => false

/-- R42: two record copies have the same arrangement. -/
def sameArrangement (a b : RecordCopy) : Bool :=
  a.panes == b.panes && sameCrease a.crease1 b.crease1 && sameCrease a.crease2 b.crease2

/-- R44: the built-in table. Seen as an image it would be 120 bytes long. -/
def builtInTable : Table :=
  { version := 1, imageLength := 120, checksum := none, ackMode := .read, hingeEdge := .lossOnly
    panelEdge := .lossOnly, hysteresis := 10, fallbackMs := 2000, pollMs := 5, report := 0, framePeriod := 8333
    enables := 0, dark := 0
    surfaces := [{ width := 3240, height := 2400, pitch := 3240, fill := 0 }, absentSurface, absentSurface, absentSurface]
    slot0 := { peak := 0, half := 1, band := 0 }, slot1 := { peak := 0, half := 1, band := 0 }
    records := [{ number := 0, sel1 := none, sel2 := none, settleMs := 100
                  win1 := { lo := 0, hi := 720 }, win2 := { lo := 0, hi := 720 }
                  panes := [{ surface := 0, orient := .q0, mirror := false, u0 := 0, v0 := 0, w := 81, h := 60
                              x0 := 0, y0 := 0 }] }] }

end Sys2Proof.Machine
end

