-- ==== Sys2Proof/Machine/Flags.lean ====
section
/-!
DEFINITION. The flags of the part: notice kinds and NOTIFY (09 R163, R164), the twelve counters with their saturated
flags (R168, R169), and the states of the record writers (R166).
-/
namespace Sys2Proof.Machine

/-! ## Notice kinds (R163, R178) -/

/-- The ten notice kinds. -/
inductive NoticeKind where
  | transitionBegun | layoutActive | hingeChange | fallbackTaken | tableLoaded
  | tableRejected | panelTiming | memoryError | countsReady | commandDone
  deriving DecidableEq, Repr

/-- Number of a kind: its bit in the notice record and in the notice enable set (R178). -/
def kindNumber : NoticeKind → Nat
  | .transitionBegun => 0
  | .layoutActive => 1
  | .hingeChange => 2
  | .fallbackTaken => 3
  | .tableLoaded => 4
  | .tableRejected => 5
  | .panelTiming => 6
  | .memoryError => 7
  | .countsReady => 8
  | .commandDone => 9

/-- The set that holds one kind alone. -/
def kindBit (k : NoticeKind) : BitVec 10 := 1#10 <<< kindNumber k

/-- The kind is pending in the set. -/
def kindPending (set : BitVec 10) (k : NoticeKind) : Bool := set.getLsbD (kindNumber k)

/-! ## Record writers (R166) -/

/-- A change of the record's contents. -/
def writerChanged : WriterState → WriterState
  | .clean => .due
  | .due => .due
  | .inFlight => .inFlightDue
  | .inFlightDue => .inFlightDue

/-- The write is issued. -/
def writerIssued : WriterState → WriterState
  | .due => .inFlight
  | w => w

/-- The write in flight is answered. -/
def writerAnswered : WriterState → WriterState
  | .inFlight => .clean
  | .inFlightDue => .due
  | w => w

/-- The write of a record writer is ready (R162, R166, R169): DUE, but for the notice writer while a host write to the
notice record is outstanding; a response or counts write waits and none is in flight. -/
def writerReady (n : NoticeUnit) : RecordWriter → Bool
  | .notice => n.noticeWriter == .due && n.hostWrites.isEmpty
  | .status => n.statusWriter == .due
  | .response => n.responseNext.isSome && !n.responseBusy
  | .counts => n.countsNext.isSome && n.countsBusy.isNone

/-- The four writers. -/
def allWriters : List RecordWriter := [.notice, .status, .response, .counts]

/-- R166: the order of the ready writes with the writers that stay alone, and without the groups left empty. -/
def keepWriters (stays : RecordWriter → Bool) (queue : List (List RecordWriter)) : List (List RecordWriter) :=
  (queue.map fun g => g.filter stays).filter fun g => !g.isEmpty

/-- The ready queue after an event: writers no longer ready leave it, and those that became ready at the event join its
end as one group (R166). -/
def refreshQueue (n : NoticeUnit) : List (List RecordWriter) :=
  let kept := keepWriters (writerReady n) n.readyQueue
  let fresh := allWriters.filter fun w => writerReady n w && !kept.flatten.contains w
  if fresh.isEmpty then kept else kept ++ [fresh]

/-! ## Notice set and NOTIFY (R163 to R165) -/

/-- R163: a kind is raised; raising an absent kind changes the set, which makes the notice record due (R166). -/
def raiseKind (k : NoticeKind) (n : NoticeUnit) : NoticeUnit :=
  if kindPending n.set k then n
  else { n with set := n.set ||| kindBit k, noticeWriter := writerChanged n.noticeWriter }

/-- R165: the kinds marked in a notice record word are removed; bits 10 to 31 are ignored (R178). -/
def acknowledgeWord (w : Pixel) (n : NoticeUnit) : NoticeUnit :=
  let kept := n.set &&& ~~~ (w.setWidth 10)
  if kept = n.set then n else { n with set := kept, noticeWriter := writerChanged n.noticeWriter }

/-- R160, R170: RESTART empties the notice set. -/
def clearKinds (n : NoticeUnit) : NoticeUnit :=
  if n.set = 0 then n else { n with set := 0, noticeWriter := writerChanged n.noticeWriter }

/-- R164: the level of NOTIFY for a notice set and a shadow table: every enable is OFF while the table is empty. -/
def notifyLevel (set : BitVec 10) (shadow : Option Table) : Bool :=
  match shadow with
  | none => false
  | some t => set &&& t.enables != 0

/-! ## Counters (R168, R169) -/

/-- The counters' names, in the order of R168. -/
inductive CounterId where
  | clipped | addressErrors | memoryErrors | held | promotions | moved
  | filled | failed | replacements | misses | clamps | transitions
  deriving DecidableEq, Repr

/-- A counter by name. -/
def counterOf (c : Counters) : CounterId → Counter
  | .clipped => c.clipped
  | .addressErrors => c.addressErrors
  | .memoryErrors => c.memoryErrors
  | .held => c.held
  | .promotions => c.promotions
  | .moved => c.moved
  | .filled => c.filled
  | .failed => c.failed
  | .replacements => c.replacements
  | .misses => c.misses
  | .clamps => c.clamps
  | .transitions => c.transitions

/-- R168: an event adds its amount; a sum above 65535 becomes 65535, and reaching 65535 sets the saturated flag. -/
def addCount (n : Nat) (c : Counter) : Counter :=
  let v := min 65535 (c.value + n)
  { value := v, saturated := c.saturated || v == 65535 }

/-- The counters with one of them advanced. -/
def countIn (i : CounterId) (n : Nat) (c : Counters) : Counters :=
  match i with
  | .clipped => { c with clipped := addCount n c.clipped }
  | .addressErrors => { c with addressErrors := addCount n c.addressErrors }
  | .memoryErrors => { c with memoryErrors := addCount n c.memoryErrors }
  | .held => { c with held := addCount n c.held }
  | .promotions => { c with promotions := addCount n c.promotions }
  | .moved => { c with moved := addCount n c.moved }
  | .filled => { c with filled := addCount n c.filled }
  | .failed => { c with failed := addCount n c.failed }
  | .replacements => { c with replacements := addCount n c.replacements }
  | .misses => { c with misses := addCount n c.misses }
  | .clamps => { c with clamps := addCount n c.clamps }
  | .transitions => { c with transitions := addCount n c.transitions }

/-- R169: a waiting value absorbs a counter: the sum capped at 65535, the flag set if either flag was set or the capped
sum is 65535. -/
def absorbCounter (w c : Counter) : Counter :=
  let v := min 65535 (w.value + c.value)
  { value := v, saturated := w.saturated || c.saturated || v == 65535 }

/-- R169: a waiting counts write absorbs the counters. -/
def absorbCounters (w c : Counters) : Counters :=
  { clipped := absorbCounter w.clipped c.clipped
    addressErrors := absorbCounter w.addressErrors c.addressErrors
    memoryErrors := absorbCounter w.memoryErrors c.memoryErrors
    held := absorbCounter w.held c.held
    promotions := absorbCounter w.promotions c.promotions
    moved := absorbCounter w.moved c.moved
    filled := absorbCounter w.filled c.filled
    failed := absorbCounter w.failed c.failed
    replacements := absorbCounter w.replacements c.replacements
    misses := absorbCounter w.misses c.misses
    clamps := absorbCounter w.clamps c.clamps
    transitions := absorbCounter w.transitions c.transitions }

/-- R169: a transfer copies the counters into a counts write, sets every counter, flag and the frame count to 0, and
hands over the sequences of the REPORTs that asked for it; a write that waits, or is ready and not granted (log 30),
absorbs it. -/
def transferCounts (reports : List Byte) (n : NoticeUnit) : NoticeUnit :=
  { n with
    counters := Counters.zero
    frameCount := 0
    countsNext := some (match n.countsNext with
      | none => { counters := n.counters, reports := reports }
      | some w => { counters := absorbCounters w.counters n.counters, reports := w.reports ++ reports }) }

/-- R162: the command block hands over a response; it replaces any response already waiting, in its place in the order of
the ready writes (log 11). -/
def formResponse (seq : Byte) (result : CommandResult) (detail : BitVec 16) (n : NoticeUnit) : NoticeUnit :=
  { n with responseNext := some { seq, result, detail } }

/-! ## On the whole part -/

/-- A change of the notice unit alone. -/
def onNotice (f : NoticeUnit → NoticeUnit) (s : State) : State := { s with notice := f s.notice }

/-- A kind is raised (R163). -/
def raise (k : NoticeKind) (s : State) : State := onNotice (raiseKind k) s

/-- An event is counted (R168). -/
def countEvent (i : CounterId) (n : Nat) (s : State) : State :=
  onNotice (fun u => { u with counters := countIn i n u.counters }) s

/-- A memory error of the part's own requests that its rule counts: the counter and MEMORY_ERROR (R16, R163). -/
def countMemoryError (s : State) : State := raise .memoryError (countEvent .memoryErrors 1 s)

/-- R162: a response is formed. -/
def respond (seq : Byte) (result : CommandResult) (detail : BitVec 16) (s : State) : State :=
  onNotice (formResponse seq result detail) s

/-- The end of an event, `before` being the state it found: a change of a status field makes the status record due
(R167), NOTIFY is evaluated (R164), and the ready writers are put in order (R166). -/
def settleOutputs (before s : State) : State :=
  let n := s.notice
  let n := if statusFields before = statusFields s then n
    else { n with statusWriter := writerChanged n.statusWriter }
  let n := { n with notify := notifyLevel n.set s.cmd.shadow }
  { s with notice := { n with readyQueue := refreshQueue n } }

/-- The outcome of a command whose event happens: the state it leaves, once the outputs have settled. -/
def happens (before s : State) : Host.Outcome State Fault Refusal := .next (settleOutputs before s)

/-- A command that takes place only while RESET_N is not asserted (R18, log 8). -/
def whileReleased (s : State) (k : Host.Outcome State Fault Refusal) : Host.Outcome State Fault Refusal :=
  if s.pins.resetAsserted then .refused .heldInReset else k

end Sys2Proof.Machine
end

