-- ==== Sys2Proof/Machine/Crease.lean ====
section
/-!
DEFINITION. The crease stage: bands, gain codes, the write path and the rescale (04, R67 to R74). It has no state (R78).
-/
namespace Sys2Proof.Machine

/-- Centre column of a hinge (R67). -/
def hingeCentre : HingeId → Nat
  | .h1 => 1080
  | .h2 => 2160

/-- R67: distance of column `x` from the centre `c`, in whole columns from the boundary between `c − 1` and `c`. -/
def creaseDistance (c x : Nat) : Nat := if c ≤ x then x - c else c - 1 - x

/-- R69: the gain code at distance `d` inside a band of peak code `P` and half-distance `Hd`. -/
def gainAt (P Hd d : Nat) : Nat := P * (2 * Hd - d % Hd) / (2 * Hd * 2 ^ (d / Hd))

/-- R68: column `x` lies in the band of hinge `h` under the context. -/
def inBand (h : HingeId) (c : CreaseContext) (x : Nat) : Bool := decide (creaseDistance (hingeCentre h) x < c.band)

/-- The code that the band of hinge `h` gives column `x`, if the column lies in it (R68, R69). -/
def bandCode (h : HingeId) (c : Option CreaseContext) (x : Nat) : Option Nat :=
  match c with
  | none => none
  | some c => if inBand h c x then some (gainAt c.peak c.half (creaseDistance (hingeCentre h) x)) else none

/-- R70: the gain code of column `x` under a record copy: the code of the one band that holds it, else 0. -/
def gainCode (rc : RecordCopy) (x : Nat) : Nat :=
  match bandCode .h1 rc.crease1 x with
  | some c => c
  | none => (bandCode .h2 rc.crease2 x).getD 0

/-- R71: the write path on one channel. -/
def liftChannel (c : Nat) (v : Byte) : Byte := BitVec.ofNat 8 (min 255 ((v.toNat * (256 + c) + 128) / 256))

/-- R73: the rescale of one channel from source code `cs` to destination code `cd`. -/
def rescaleChannel (cs cd : Nat) (v : Byte) : Byte :=
  BitVec.ofNat 8 (min 255 ((v.toNat * (256 + cd) + (256 + cs) / 2) / (256 + cs)))

/-- A pixel with blue, green and red replaced and alpha carried unchanged (R71, R73). -/
def mapChannels (f : Byte → Byte) (p : Pixel) : Pixel :=
  pixelOfBytes (f (pixelByte p 0)) (f (pixelByte p 1)) (f (pixelByte p 2)) (pixelByte p 3)

/-- R71: the write path. -/
def creaseWrite (c : Nat) (p : Pixel) : Pixel := mapChannels (liftChannel c) p

/-- R73: the rescale of a moved pixel. -/
def creaseRescale (cs cd : Nat) (p : Pixel) : Pixel := mapChannels (rescaleChannel cs cd) p

end Sys2Proof.Machine
end

