-- ==== Sys2Proof/Machine/Remap.lean ====
section
/-!
DEFINITION. The remap computation: from a surface request to its fragments, tiles touched and pixel map (03, R47 to R62).
-/
namespace Sys2Proof.Machine

/-! ## One pixel (R47 to R56) -/

/-- A logical pixel of a surface. -/
structure LogicalPixel where
  x : Nat
  y : Nat
  deriving DecidableEq, Repr

/-- A physical pixel of the panel. -/
structure PanelPixel where
  x : Nat
  y : Nat
  deriving DecidableEq, Repr

/-- Pixel index of request pixel `i` in its aperture (R47). -/
def pixelIndex (k : Nat) (r : Request) (i : Nat) : Nat := (r.address.toNat - apertureBase k) / 4 + i

/-- R47, R48: the logical pixel at pixel index `p`, or none where it is clipped. -/
def logicalPixel (snap : Option Snapshot) (p : Nat) : Option LogicalPixel :=
  match snap with
  | none => none
  | some s =>
    let y := p / s.pitch
    let x := p % s.pitch
    if x < s.width ∧ y < s.height then some { x, y } else none

/-- R52: the pane covers the pixel: same surface, and its logical rectangle holds the pixel's tile. -/
def coversPixel (k : Nat) (p : Pane) (q : LogicalPixel) : Bool := p.surface == k && paneCovers p (q.x / 40) (q.y / 40)

/-- R54: the pane-local pixel, after the mirror step. -/
def paneLocal (p : Pane) (q : LogicalPixel) : Nat × Nat :=
  let lx := (q.x / 40 - p.u0) * 40 + q.x % 40
  let ly := (q.y / 40 - p.v0) * 40 + q.y % 40
  (if p.mirror then 40 * p.w - 1 - lx else lx, ly)

/-- R55: the turn of a pane-local pixel within extent W × H. -/
def turnPixel (o : Orient) (W H lx ly : Nat) : Nat × Nat :=
  match o with
  | .q0 => (lx, ly)
  | .q1 => (H - 1 - ly, lx)
  | .q2 => (W - 1 - lx, H - 1 - ly)
  | .q3 => (ly, W - 1 - lx)

/-- R54 to R56: the physical pixel of a logical pixel under a covering pane. -/
def placePixel (p : Pane) (q : LogicalPixel) : PanelPixel :=
  let l := paneLocal p q
  let t := turnPixel p.orient (40 * p.w) (40 * p.h) l.1 l.2
  { x := 40 * p.x0 + t.1, y := 40 * p.y0 + t.2 }

/-- R56: downstream address of a physical pixel of a bank. -/
def pixelAddress (b : Bank) (q : PanelPixel) : Nat := bankBase b + (q.y * 3240 + q.x) * 4

/-- The tile that holds a physical pixel (R62). -/
def tileOfPixel (q : PanelPixel) : Tile := { col := q.x / 40, row := q.y / 40 }

/-! ## The pixels of a request -/

/-- The word of request pixel `i` of a WRITE, where the pixel is unmasked (R1, R49). -/
def writtenPixel (r : Request) (i : Nat) : Option Pixel :=
  match r.body with
  | .read _ => none
  | .write px =>
    match px[i]? with
    | some p => if p.mask = .write then some p.word else none
    | none => none

/-- Request pixel `i` takes part at all: a READ's pixel, or an unmasked pixel of a WRITE (R49, R58). -/
def pixelTakesPart (r : Request) (i : Nat) : Bool :=
  match r.body with
  | .read n => decide (i < n)
  | .write _ => (writtenPixel r i).isSome

/-- The indices of the panes that cover a logical pixel, in pane order (R52). -/
def coveringPanes (k : Nat) (rc : RecordCopy) (q : LogicalPixel) : List Nat :=
  (rc.panes.zipIdx.filter fun p => coversPixel k p.1 q).map Prod.snd

/-- R49: request pixel `i` of a WRITE is dropped and counted: unmasked, and clipped or covered by no pane. -/
def pixelDropped (k : Nat) (snap : Option Snapshot) (rc : RecordCopy) (r : Request) (i : Nat) : Bool :=
  (writtenPixel r i).isSome &&
    match logicalPixel snap (pixelIndex k r i) with
    | none => true
    | some q => (coveringPanes k rc q).isEmpty

/-- R49: the number of pixels a surface request adds to the clipped-pixel counter. -/
def droppedPixels (k : Nat) (snap : Option Snapshot) (rc : RecordCopy) (r : Request) : Nat :=
  ((List.range (bodyCount r.body)).filter (pixelDropped k snap rc r)).length

/-- A pixel placed for one pane: its panel position and, for a WRITE, the word with the crease gain of its column. -/
structure Placed where
  pos : PanelPixel
  word : Pixel
  deriving DecidableEq, Repr

/-- R53, R57, R58: request pixel `i` as it takes part for pane `j` of the governing record, if it does: a WRITE through
each covering pane, with the write path of its column; a READ through the first covering pane alone. -/
def placedFor (k : Nat) (snap : Option Snapshot) (rc : RecordCopy) (r : Request) (j i : Nat) : Option Placed :=
  match logicalPixel snap (pixelIndex k r i), rc.panes[j]? with
  | some q, some p =>
    let pos := placePixel p q
    match r.body with
    | .write _ =>
      match writtenPixel r i with
      | some w => if coversPixel k p q then some { pos, word := creaseWrite (gainCode rc pos.x) w } else none
      | none => none
    | .read _ => if (coveringPanes k rc q).head? = some j then some { pos, word := 0 } else none
  | _, _ => none

/-! ## Fragments (R58 to R61) -/

/-- An open fragment: its first request pixel, the direction its second pixel set (true when descending), and its pixels,
latest first. -/
structure Run where
  first : Nat
  descending : Option Bool
  pixels : List Placed
  deriving DecidableEq, Repr

/-- R58: the direction in which pixel `q` follows pixel `last` in one row: 4 above is ascending, 4 below descending. -/
def stepDirection (last q : PanelPixel) : Option Bool :=
  if q.y ≠ last.y then none
  else if q.x = last.x + 1 then some false
  else if q.x + 1 = last.x then some true
  else none

/-- R58: the open fragment with pixel `q` joined, if it may join. -/
def extendRun (r : Run) (q : Placed) : Option Run :=
  match r.pixels with
  | [] => none
  | last :: _ =>
    match stepDirection last.pos q.pos with
    | none => none
    | some d =>
      if r.pixels.length < 64 ∧ (r.descending = none ∨ r.descending = some d) then
        some { r with descending := some d, pixels := q :: r.pixels }
      else none

/-- R58: the fragments of one pane, from the request pixels as they take part for it. -/
def gatherRuns : List (Option Placed) → Nat → Option Run → List Run
  | [], _, open? => open?.toList
  | none :: ps, i, open? => open?.toList ++ gatherRuns ps (i + 1) none
  | some q :: ps, i, none => gatherRuns ps (i + 1) (some { first := i, descending := none, pixels := [q] })
  | some q :: ps, i, some r =>
    match extendRun r q with
    | some r' => gatherRuns ps (i + 1) (some r')
    | none => r :: gatherRuns ps (i + 1) (some { first := i, descending := none, pixels := [q] })

/-- R58: the runs of pane `j`. -/
def paneRuns (k : Nat) (snap : Option Snapshot) (rc : RecordCopy) (r : Request) (j : Nat) : List Run :=
  gatherRuns ((List.range (bodyCount r.body)).map (placedFor k snap rc r j)) 0 none

/-- R60: the fragment of a run of pane `j`: address the lowest of its pixels, words in ascending address order. -/
def fragmentOfRun (kind : Kind) (b : Bank) (j : Nat) (run : Run) : Fragment :=
  let desc := run.descending == some true
  let ascending := if desc then run.pixels else run.pixels.reverse
  { pane := j
    first := run.first
    address := (ascending.head?.map fun q => pixelAddress b q.pos).getD 0
    count := run.pixels.length
    descending := desc
    data := if kind = .write then ascending.map (·.word) else []
    state := .notIssued
    got := [] }

/-- R61: the runs of all panes in issue order: by first request pixel, and of those in pane order. -/
def orderedRuns (k : Nat) (snap : Option Snapshot) (rc : RecordCopy) (r : Request) : List (Nat × Run) :=
  let byPane := (List.range rc.panes.length).map fun j => (j, paneRuns k snap rc r j)
  (List.range (bodyCount r.body)).flatMap fun i =>
    byPane.flatMap fun jr => (jr.2.filter fun run => run.first == i).map fun run => (jr.1, run)

/-- A list without its later repeats. -/
def dropRepeats {α : Type} [DecidableEq α] : List α → List α
  | [] => []
  | a :: as => a :: (dropRepeats as).filter (fun b => b ≠ a)

/-- R62: the tiles touched, in the order of the fragments, each at its first appearance; within one fragment in the
order of its request pixels (log 13). -/
def touchedTiles (b : Bank) (runs : List (Nat × Run)) : List BankTile :=
  dropRepeats (runs.flatMap fun jr => jr.2.pixels.reverse.map fun q => { bank := b, tile := tileOfPixel q.pos })

/-- R45, R60, R64: where request pixel `i` of a READ is carried: fragment and position, or ZERO. -/
def pixelMapEntry (runs : List (Nat × Run)) (i : Nat) : Option (Nat × Nat) :=
  (runs.zipIdx.find? fun e => decide (e.1.2.first ≤ i) && decide (i < e.1.2.first + e.1.2.pixels.length)).map fun e =>
    let n := e.1.2.pixels.length
    let at_ := i - e.1.2.first
    (e.2, if e.1.2.descending = some true then n - 1 - at_ else at_)

/-- R45: the snapshot of a surface descriptor; a width of 0 marks it ABSENT (R22). -/
def snapshotOf (t : Option Table) (k : Nat) : Option Snapshot :=
  match t with
  | none => none
  | some t =>
    let s := tableSurface t k
    if s.width = 0 then none else some { width := s.width, height := s.height, pitch := s.pitch }

/-- R45, R46: the context of a surface request of surface `k`, computed whole at its reception. -/
def makeContext (p : Port) (gen : BitVec 16) (rc : RecordCopy) (b : Bank) (snap : Option Snapshot) (k : Nat)
    (r : Request) : Context :=
  let runs := orderedRuns k snap rc r
  let kind := bodyKind r.body
  { port := p, tag := r.tag, kind := kind, count := bodyCount r.body, generation := gen, record := rc, bank := b
    snapshot := snap
    fragments := runs.map fun jr => fragmentOfRun kind b jr.1 jr.2
    tiles := touchedTiles b runs
    pixelMap := if kind = .read then (List.range (bodyCount r.body)).map (pixelMapEntry runs) else [] }

/-- R17: the bank of a downstream byte address of the raw bank window. -/
def bankOfAddress (a : Nat) : Bank := if a < 0x02000000 then .bank0 else .bank1

/-- R17: the tile of one word of a raw request, where it lies within the first 31,104,000 bytes of its bank. -/
def rawTile (a : Nat) : Option BankTile :=
  let b := bankOfAddress a
  let p := (a - bankBase b) / 4
  if p < 7776000 then some { bank := b, tile := tileOfPixel { x := p % 3240, y := p / 3240 } } else none

/-- R17: the tiles a raw bank window request touches. -/
def rawTiles (r : Request) : List BankTile :=
  dropRepeats ((List.range (bodyCount r.body)).filterMap fun i => rawTile (r.address.toNat + 4 * i))

end Sys2Proof.Machine
end

