-- ==== Sys2Proof/Machine/Plan.lean ====
section
/-!
DEFINITION. The plan of a transition and the contents of tile rows: whole-tile placement and its inverse, the plan's
order, the map entries, the rows of fills and moves (07 R127 to R129, R134 to R136).
-/
namespace Sys2Proof.Machine

/-! ## Whole tiles and in-tile offsets (R128) -/

/-- R128: the physical tile onto which a pane places logical tile (u, v). -/
def placeTile (p : Pane) (u v : Nat) : Tile :=
  let j := v - p.v0
  let i := if p.mirror then p.w - 1 - (u - p.u0) else u - p.u0
  match p.orient with
  | .q0 => { col := p.x0 + i, row := p.y0 + j }
  | .q1 => { col := p.x0 + (p.h - 1 - j), row := p.y0 + i }
  | .q2 => { col := p.x0 + (p.w - 1 - i), row := p.y0 + (p.h - 1 - j) }
  | .q3 => { col := p.x0 + j, row := p.y0 + (p.w - 1 - i) }

/-- The logical tile (u, v) that a pane places onto physical tile `t`, the tables of R128 read backwards. -/
def logicalTile (p : Pane) (t : Tile) : Nat × Nat :=
  let tx := t.col - p.x0
  let ty := t.row - p.y0
  let ij : Nat × Nat :=
    match p.orient with
    | .q0 => (tx, ty)
    | .q1 => (ty, p.h - 1 - tx)
    | .q2 => (p.w - 1 - tx, p.h - 1 - ty)
    | .q3 => (p.w - 1 - ty, tx)
  (p.u0 + (if p.mirror then p.w - 1 - ij.1 else ij.1), p.v0 + ij.2)

/-- R128: the physical in-tile offset (column, row) of logical in-tile offset (a, b). -/
def placeOffset (p : Pane) (a b : Nat) : Nat × Nat :=
  let a := if p.mirror then 39 - a else a
  match p.orient with
  | .q0 => (a, b)
  | .q1 => (39 - b, a)
  | .q2 => (39 - a, 39 - b)
  | .q3 => (b, 39 - a)

/-- The logical in-tile offset (a, b) placed at physical in-tile offset (c, r), the second table of R128 read
backwards. -/
def logicalOffset (p : Pane) (c r : Nat) : Nat × Nat :=
  let ab : Nat × Nat :=
    match p.orient with
    | .q0 => (c, r)
    | .q1 => (r, 39 - c)
    | .q2 => (39 - c, 39 - r)
    | .q3 => (39 - r, c)
  (if p.mirror then 39 - ab.1 else ab.1, ab.2)

/-! ## The plan (R127, R129) -/

/-- R127: the destinations of a pane's logical tiles in row order. -/
def panePlan (p : Pane) : List Tile :=
  (List.range p.h).flatMap fun j => (List.range p.w).map fun i => placeTile p (p.u0 + i) (p.v0 + j)

/-- The panel's tiles in raster order. -/
def rasterTiles : List Tile :=
  (List.range 60).flatMap fun r => (List.range 81).map fun c => { col := c, row := r }

/-- The pane of a record copy that owns a physical tile: its index. -/
def ownerPane (rc : RecordCopy) (t : Tile) : Option Nat := rc.panes.findIdx? fun p => paneOwns p t

/-- R127: the destinations of the plan, position 0 first: pane tiles, then the tiles no pane owns in raster order. -/
def planTiles (target : RecordCopy) : List Tile :=
  target.panes.flatMap panePlan ++ rasterTiles.filter fun t => (ownerPane target t).isNone

/-- R129: the first pane of the old record that shows surface `k` and covers logical tile (u, v). -/
def sourcePane (old : RecordCopy) (k u v : Nat) : Option Nat :=
  old.panes.findIdx? fun p => p.surface == k && paneCovers p u v

/-- R129: the pending state that the plan gives the entry of physical tile `t`. -/
def planEntry (target : RecordCopy) (old : Option RecordCopy) (t : Tile) : TileState :=
  match ownerPane target t with
  | none => .pendingFill .dark
  | some j =>
    match target.panes[j]? with
    | none => .pendingFill .dark
    | some p =>
      let uv := logicalTile p t
      match old with
      | none => .pendingFill (.surface p.surface j)
      | some o =>
        match sourcePane o p.surface uv.1 uv.2 with
        | none => .pendingFill (.surface p.surface j)
        | some i =>
          match o.panes[i]? with
          | none => .pendingFill (.surface p.surface j)
          | some q => .pendingMove { source := placeTile q uv.1 uv.2, oldPane := i, targetPane := j }

/-- R126: the transition map that a commit sets. -/
def planMap (target : RecordCopy) (old : Option RecordCopy) : List TileState := rasterTiles.map (planEntry target old)

/-! ## Map entries (R125) -/

/-- Place of a tile in the map. -/
def tileIndex (t : Tile) : Nat := t.row * 81 + t.col

/-- The entry of a tile. -/
def entryAt (m : List TileState) (t : Tile) : TileState := m.getD (tileIndex t) .done

/-- The map with one entry set. -/
def setEntry (m : List TileState) (t : Tile) (e : TileState) : List TileState := m.set (tileIndex t) e

/-- PENDING_MOVE or PENDING_FILL (R125). -/
def isPending : TileState → Bool
  | .pendingMove _ | .pendingFill _ => true
  | _ => false

/-- PENDING_FILL. -/
def isPendingFill : TileState → Bool
  | .pendingFill _ => true
  | _ => false

/-- DONE or FAILED (R125). -/
def isFinished : TileState → Bool
  | .done | .failed => true
  | _ => false

/-! ## Rows of a tile (R134 to R136) -/

/-- Downstream address of pixel row `q` of a tile of a bank (R134, R135). -/
def rowAddress (b : Bank) (t : Tile) (q : Nat) : Nat := bankBase b + ((40 * t.row + q) * 3240 + 40 * t.col) * 4

/-- R134: the value presented by a fill. -/
def fillValue (shadow : Option Table) (k : FillKind) : Pixel :=
  match shadow with
  | none => 0
  | some t =>
    match k with
    | .surface n _ => (tableSurface t n).fill
    | .dark => t.dark

/-- R134: the 40 destination rows of a fill: every row the same 40 values, each with the gain of its column. -/
def fillRows (target : RecordCopy) (v : Pixel) (t : Tile) : List (List Pixel) :=
  List.replicate 40 ((List.range 40).map fun c => creaseWrite (gainCode target (40 * t.col + c)) v)

/-- The pixel at column `c`, row `r` of the rows read. -/
def rowsPixel (rows : List (List Pixel)) (c r : Nat) : Pixel := (rows.getD r []).getD c 0

/-- R136: the destination pixel at in-tile offset (c, r): the source pixel that shares its logical offset, rescaled from
the code of its column under the old record to the code of the destination column under the target record. -/
def movePixel (target old : RecordCopy) (m : MoveSpec) (dest : Tile) (rows : List (List Pixel)) (c r : Nat) : Pixel :=
  match target.panes[m.targetPane]?, old.panes[m.oldPane]? with
  | some p, some q =>
    let ab := logicalOffset p c r
    let src := placeOffset q ab.1 ab.2
    creaseRescale (gainCode old (40 * m.source.col + src.1)) (gainCode target (40 * dest.col + c))
      (rowsPixel rows src.1 src.2)
  | _, _ => rowsPixel rows c r

/-- R136: the 40 destination rows of a move. -/
def moveRows (target old : RecordCopy) (m : MoveSpec) (dest : Tile) (rows : List (List Pixel)) : List (List Pixel) :=
  (List.range 40).map fun r => (List.range 40).map fun c => movePixel target old m dest rows c r

end Sys2Proof.Machine
end

