-- ==== Sys2Proof/Machine/Relocation.lean ====
section
/-!
DEFINITION. The relocation engine's shared operations: the hold and promotion queues, offers and takes (07 R130, R131,
R141 to R147).
-/
namespace Sys2Proof.Machine

/-- A change of the engine alone. -/
def onEngine (f : Engine → Engine) (s : State) : State := { s with engine := f s.engine }

/-- A record copy with no pane, which stands where a rule has a copy and an unreachable state has none (log 27). -/
def blankRecord : RecordCopy := { number := 0, panes := [], crease1 := none, crease2 := none }

/-- The target record of the transition. -/
def targetRecord (s : State) : RecordCopy := s.ctrl.target.getD blankRecord

/-- The back bank: the bank SCAN_BANK does not name (R50). -/
def backBank (s : State) : Bank := otherBank s.ctrl.frontBank

/-- The level of SCAN_BANK, which is the front bank (R101). -/
def State.scanBank (s : State) : Bank := s.ctrl.frontBank

/-- The context of an outstanding surface request. -/
def contextOf (key : Key) (s : State) : Option Context :=
  s.contexts.find? fun c => c.port == key.1 && c.tag == key.2

/-- The request's entry joins the end of its port's path list (R11). -/
def joinPath (p : Port) (e : PathEntry) (s : State) : State :=
  setPort p { portOf p s with path := (portOf p s).path ++ [e] } s

/-! ## Hold queue (R141 to R143) -/

/-- Every tile touched is DONE or FAILED in the map (R141). -/
def tilesFinished (m : List TileState) (ts : List BankTile) : Bool := ts.all fun t => isFinished (entryAt m t.tile)

/-- A held request's tiles are all finished (R143). -/
def heldFinished (s : State) (key : Key) : Bool :=
  match contextOf key s with
  | none => true
  | some c => tilesFinished s.engine.map c.tiles

/-- R143: held requests whose tiles are all finished leave the hold queue in entry order and join their path lists. -/
def releaseHeld (s : State) : State :=
  let go := s.engine.hold.filter (heldFinished s)
  let stay := s.engine.hold.filter fun k => !heldFinished s k
  go.foldl (fun t key => joinPath key.1 (.surface key.2) t) (onEngine (fun e => { e with hold := stay }) s)

/-! ## Promotion queue (R145, R147) -/

/-- R145: a pending tile not yet queued is appended while the queue has fewer than 16 entries, and counted. -/
def promoteTile (t : Tile) (s : State) : State :=
  if isPending (entryAt s.engine.map t) && !s.engine.promotion.contains t && decide (s.engine.promotion.length < 16) then
    countEvent .promotions 1 (onEngine (fun e => { e with promotion := e.promotion ++ [t] }) s)
  else s

/-- R145: the tiles of a request are offered in the order of its fragments. -/
def promoteTiles (ts : List BankTile) (s : State) : State := ts.foldl (fun t bt => promoteTile bt.tile t) s

/-- R147: the tiles of the held requests are offered again, oldest request first. -/
def promoteHeld (s : State) : State :=
  s.engine.hold.foldl (fun t key =>
    match contextOf key t with
    | none => t
    | some c => promoteTiles c.tiles t) s

/-! ## Offers and takes (R130, R131) -/

/-- R131: what the promotion queue offers. -/
def promotionOffer (s : State) : Option Tile :=
  match s.ctrl.state, s.ctrl.drainKind with
  | .relocating, _ => s.engine.promotion.head?
  | .draining, .commit => s.engine.promotion.find? fun t => isPendingFill (entryAt s.engine.map t)
  | _, _ => none

/-- R130: the entries the cursor's pass offers: fills in the fill pass, any pending entry in the main pass, none in a
restart drain and outside a transition's work. -/
def cursorPass (c : Controller) : Option (TileState → Bool) :=
  match c.state, c.drainKind with
  | .relocating, _ => some isPending
  | .draining, .commit => some isPendingFill
  | _, _ => none

/-- The first tile of a plan suffix that qualifies, with its position. -/
def firstOffer (wanted : Tile → Bool) : List Tile → Nat → Option (Nat × Tile)
  | [], _ => none
  | t :: ts, i => if wanted t then some (i, t) else firstOffer wanted ts (i + 1)

/-- R130: the cursor's offer: the first position at or after it whose entry qualifies and is not queued. -/
def cursorOffer (wanted : TileState → Bool) (s : State) : Option (Nat × Tile) :=
  firstOffer (fun t => wanted (entryAt s.engine.map t) && !s.engine.promotion.contains t)
    ((planTiles (targetRecord s)).drop s.engine.cursor) s.engine.cursor

/-- R134: the buffer of a fill as its operation begins. -/
def fillBuffer (s : State) (t : Tile) (k : FillKind) : TileBuffer :=
  .writing { tile := t, bank := backBank s, op := .fill
             rows := fillRows (targetRecord s) (fillValue s.cmd.shadow k) t
             issued := 0, answered := 0, failure := false }

/-- R131, R134, R135: the tile's entry goes into operation and the buffer begins its fill or move. -/
def startTile (b : BufferId) (t : Tile) (s : State) : State :=
  match entryAt s.engine.map t with
  | .pendingMove m =>
    onEngine (fun e => setBuffer b
      (.reading { tile := t, move := m, bank := s.ctrl.frontBank, issued := 0, answered := 0, rows := [], abandon := false })
      { e with map := setEntry e.map t (.moving m b) }) s
  | .pendingFill k =>
    onEngine (fun e => setBuffer b (fillBuffer s t k) { e with map := setEntry e.map t (.filling k b) }) s
  | _ => s

/-- R131: an EMPTY buffer takes the tile offered, by the promotion queue or else by the cursor. A tile taken from the
promotion queue leaves it, and the held requests' tiles are offered again (R147); the cursor stands after the position
it offered, or at 4860 when none qualifies (R130), and stays there after the transition, through the flip and in STEADY,
until the next commit (log 31). -/
def takeTile (b : BufferId) (s : State) : State :=
  match bufferOf b s.engine with
  | .empty =>
    match promotionOffer s with
    | some t =>
      promoteHeld (startTile b t (onEngine (fun e => { e with promotion := e.promotion.erase t }) s))
    | none =>
      match cursorPass s.ctrl with
      | none => s
      | some wanted =>
        match cursorOffer wanted s with
        | some (i, t) => startTile b t (onEngine (fun e => { e with cursor := i + 1 }) s)
        | none => onEngine (fun e => { e with cursor := 4860 }) s
  | _ => s

/-- R131: the engine looks for a tile for each EMPTY buffer, TB0 first. -/
def takeTiles (s : State) : State := takeTile .tb1 (takeTile .tb0 s)

/-- R142: a request enters the hold queue, is counted, and its tiles are offered for promotion; an append may give an
EMPTY buffer a tile (R145). -/
def enterHold (key : Key) (ts : List BankTile) (s : State) : State :=
  takeTiles (promoteTiles ts (countEvent .held 1 (onEngine (fun e => { e with hold := e.hold ++ [key] }) s)))

end Sys2Proof.Machine
end

