-- ==== Sys2Proof/Machine/Transition.lean ====
section
/-!
DEFINITION. The transition controller's shared operations: commits, the drain's end, the completion test, the flip, the
pending slot, layout requests and the boot transition (06 R103 to R118).
-/
namespace Sys2Proof.Machine

/-- A change of the transition controller alone. -/
def onCtrl (f : Controller → Controller) (s : State) : State := { s with ctrl := f s.ctrl }

/-- DRAINING, RELOCATING and FLIP_WAIT, the states of a transition (R101). -/
def inTransition : CtrlState → Bool
  | .draining | .relocating | .flipWait => true
  | _ => false

/-- The surface writes outstanding: those whose context is held (R7, R45, R107). -/
def outstandingWrites (s : State) : List Key :=
  (s.contexts.filter fun c => c.kind == .write).map fun c => (c.port, c.tag)

/-- R106, R117, R118: what every commit does once its records are chosen: the generation rises, every outstanding
surface write is marked old, the map is set and the cursor reset, TRANSITION_BEGUN is raised, the controller drains if
writes were outstanding and relocates if not, and the engine takes tiles into its EMPTY buffers (R126). -/
def beginTransition (drain : DrainKind) (target : RecordCopy) (old : Option RecordCopy) (s : State) : State :=
  let writes := outstandingWrites s
  takeTiles <| raise .transitionBegun <|
    onEngine (fun e => { e with map := planMap target old, cursor := 0 }) <|
    onCtrl (fun c => { c with
      target := some target, old := old, generation := c.generation + 1, oldWrites := writes, drainKind := drain
      state := if writes = [] then .relocating else .draining }) s

/-- R106: a commit of the shadow table's record `r`, made from STEADY. -/
def commitRecord (t : Table) (r : LayoutRecord) (s : State) : State :=
  beginTransition .commit (copyRecord t r) s.ctrl.active s

/-- R103, R110: a commit of layout `n` where the shadow table holds it; otherwise nothing. -/
def commitLayout (n : Nat) (s : State) : State :=
  match s.cmd.shadow with
  | none => s
  | some t =>
    match tableRecord t n with
    | none => s
    | some r => commitRecord t r s

/-- R110: the pending slot is emptied and its layout committed where the shadow table holds it. -/
def resolveSlot (s : State) : State :=
  match s.ctrl.slot with
  | none => s
  | some n => commitLayout n (onCtrl (fun c => { c with slot := none }) s)

/-- R114, R115: the flip, and the resolution of the pending slot at the same event: no status write is issued between
them (log 29). -/
def flip (s : State) : State :=
  resolveSlot <| raise .layoutActive <| countEvent .transitions 1 <|
    onCtrl (fun c => { c with
      frontBank := otherBank c.frontBank, active := c.target, target := none, old := none
      panelEnable := true, state := .steady }) s

/-- R112: the transition is complete: every tile finished, both buffers EMPTY, the hold queue empty. -/
def relocationComplete (e : Engine) : Bool :=
  e.map.all isFinished && e.tb0 == .empty && e.tb1 == .empty && e.hold.isEmpty

/-- R112, R113: the completion test; with panel timing LOST the flip is taken at the same event. -/
def completionTest (s : State) : State :=
  if s.ctrl.state = .relocating ∧ relocationComplete s.engine = true then
    let s := onCtrl (fun c => { c with state := .flipWait }) s
    if s.frame.panel = .lost then flip s else s
  else s

/-- R108: the drain has ended: RELOCATING, the cursor reset (R130), tiles taken (R131), the completion test. -/
def enterRelocating (s : State) : State :=
  completionTest <| takeTiles <| onEngine (fun e => { e with cursor := 0 }) <|
    onCtrl (fun c => { c with state := .relocating }) s

/-- R107, R108: the response of a surface write is sent: a marked write leaves the old-write set, and when it is the last
one in DRAINING the drain ends. -/
def leaveOldWrites (key : Key) (s : State) : State :=
  if key ∈ s.ctrl.oldWrites then
    let s := onCtrl (fun c => { c with oldWrites := c.oldWrites.filter fun k => k ≠ key }) s
    if s.ctrl.state = .draining ∧ s.ctrl.oldWrites = [] then enterRelocating s else s
  else s

/-! ## Layout requests (R103, R104, R109) -/

/-- The layout number of the active record. -/
def activeNumber (s : State) : Option Nat := s.ctrl.active.map (·.number)

/-- The layout number of the target record. -/
def targetNumber (s : State) : Option Nat := s.ctrl.target.map (·.number)

/-- R104, R109: a request for layout `n` acts on the pending slot, `current` being the number the slot is measured
against: equal to it, the slot is emptied; otherwise the slot is set, and replacing another number is counted. A request
that comes after RESTART in its transition sets the slot like any other (log 28). -/
def slotRequest (current : Option Nat) (n : Nat) (s : State) : State :=
  if current = some n then onCtrl (fun c => { c with slot := none }) s
  else
    match s.ctrl.slot with
    | none => onCtrl (fun c => { c with slot := some n }) s
    | some m =>
      if m = n then s else countEvent .replacements 1 (onCtrl (fun c => { c with slot := some n }) s)

/-- R103, R104, R109: a layout request for layout `n` arrives at the controller. -/
def layoutRequest (n : Nat) (s : State) : State :=
  match s.ctrl.state with
  | .loading => s
  | .steady =>
    if s.ctrl.loadHold then slotRequest (activeNumber s) n s
    else if activeNumber s = some n then s
    else commitLayout n s
  | .draining | .relocating | .flipWait => slotRequest (targetNumber s) n s

/-- R86: the intended layout. -/
def intendedLayout (s : State) : Option Nat :=
  match s.ctrl.state with
  | .loading => none
  | .steady => s.ctrl.slot.or (activeNumber s)
  | .draining | .relocating | .flipWait => s.ctrl.slot.or (targetNumber s)

/-! ## After a table load, at boot and at RESTART (R104, R111, R117, R118) -/

/-- R111: the self-transition test after a table replacement: the active number's new record, where its arrangement
differs from the active record's. -/
def selfTransition (t : Table) (s : State) : Option LayoutRecord :=
  match s.ctrl.active with
  | none => none
  | some a =>
    match tableRecord t a.number with
    | none => none
    | some r => if sameArrangement (copyRecord t r) a then none else some r

/-- R104: the end of a load that replaced the shadow table by `t`: load hold OFF, the self-transition test, and, where
it did not commit, the resolution of the slot. -/
def endLoadReplaced (t : Table) (s : State) : State :=
  let s := onCtrl (fun c => { c with loadHold := false }) s
  match selfTransition t s with
  | some r => commitRecord t r s
  | none => resolveSlot s

/-- R104: the end of a load without a replacement: load hold OFF and the resolution of the slot. -/
def endLoadKept (s : State) : State := resolveSlot (onCtrl (fun c => { c with loadHold := false }) s)

/-- The record 0 that the boot transition builds, copied from the shadow table (R117, R118). -/
def bootTarget (s : State) : RecordCopy :=
  match s.cmd.shadow with
  | none => blankRecord
  | some t =>
    match tableRecord t 0 with
    | none => blankRecord
    | some r => copyRecord t r

/-- R117: the boot commit; no surface request has been accepted, so the controller becomes RELOCATING. -/
def bootCommit (s : State) : State := beginTransition s.ctrl.drainKind (bootTarget s) none s

/-- R118: the controller's part of RESTART: slot empty, load hold OFF, the records absent, and the boot transition
committed; the drain kind is RESTART where old writes are to be drained. -/
def restartCommit (s : State) : State :=
  let s := onCtrl (fun c => { c with slot := none, loadHold := false, active := none, target := none, old := none }) s
  beginTransition (if outstandingWrites s = [] then s.ctrl.drainKind else .restart) (bootTarget s) none s

end Sys2Proof.Machine
end

