-- ==== Sys2Proof/Machine/Ops.lean ====
section
/-!
DEFINITION. Shared operations of the memory path and the clock: time and timers, ready responses, outstanding requests,
the sending of a response, and the aborts of RESTART (01 R2, R6 to R12, R17, R19; log 3).
-/
namespace Sys2Proof.Machine

/-! ## The clock (log 3) -/

/-- Due time of the settle timer while it runs (R88). -/
def settleDue : SettleTimer → Option Nat
  | .running _ due => some due
  | _ => none

/-- Due time of the fallback timer while it runs (R91). -/
def fallbackDue : FallbackTimer → Option Nat
  | .running due => some due
  | _ => none

/-- R81, R179: the last moment, in µs after the end of the poll frame, at which a reply may begin: 1 ms. -/
def replyLimit : Nat := 1000

/-- R179: from the sample that finds the start bit to the end of the reply, 32 bits at 400 kHz, in µs (log 17). -/
def replyLength : Nat := 80

/-- R81, R179: the time at which a poll ends whose reply begins `start` µs after the poll frame: at the reply's end where
it begins in time, otherwise at the time-out. -/
def pollEndTime (q : Poll) (start : Nat) : Nat :=
  q.frameEnd + if start ≤ replyLimit then start + replyLength else replyLimit

/-- The latest time at which a poll ends: the end of a reply that begins at the last moment. -/
def pollDue (q : Poll) : Nat := q.frameEnd + (replyLimit + replyLength)

/-- The due times of what runs: the next poll round, the settle, fallback and loss timers, and the latest end of the poll
in progress. -/
def runningDues (s : State) : List Nat :=
  s.monitor.roundDue ::
    ((settleDue s.monitor.settle).toList ++ (fallbackDue s.monitor.fallback).toList ++ s.frame.lossTimer.toList
      ++ (s.monitor.poll.map pollDue).toList)

/-- Nothing that runs falls due before time `t`. -/
def noneDueBefore (t : Nat) (s : State) : Bool := (runningDues s).all fun d => decide (t ≤ d)

/-- The clock stands at `t`, or where it stood if that is later. -/
def clockAt (t : Nat) (s : State) : State := { s with now := max s.now t }

/-- An event at time `t`: refused where something that runs falls due before it. -/
def atTime (t : Nat) (s : State) (event : State → State) : Host.Outcome State Fault Refusal :=
  if noneDueBefore t s then happens s (event (clockAt t s)) else .refused .outOfTimeOrder

/-- An event that falls at time `t` and no later: refused where the clock stands past it. -/
def exactlyAt (t : Nat) (s : State) (event : State → State) : Host.Outcome State Fault Refusal :=
  if s.now ≤ t then atTime t s event else .refused .outOfTimeOrder

/-! ## Responses and outstanding requests -/

/-- A group of responses that become ready together joins the end (R2). -/
def appendGroup (ready : List (List ReadyResponse)) (g : List ReadyResponse) : List (List ReadyResponse) :=
  if g.isEmpty then ready else ready ++ [g]

/-- One response becomes ready at a port (R2). -/
def makeReady (p : Port) (rr : ReadyResponse) (s : State) : State :=
  setPort p { portOf p s with ready := appendGroup (portOf p s).ready [rr] } s

/-- The intake place of a port takes a new state. -/
def setPlace (p : Port) (pl : Place) (s : State) : State := setPort p { portOf p s with place := pl } s

/-- A tag becomes outstanding (R2, R6 step 4). -/
def markTag (p : Port) (tag : Tag) (s : State) : State :=
  setPort p { portOf p s with tags := (portOf p s).tags ++ [tag] } s

/-- A tag is outstanding. -/
def tagOutstanding (p : Port) (tag : Tag) (s : State) : Bool := (portOf p s).tags.contains tag

/-- The context of a request is discarded (R45). -/
def dropContext (key : Key) (s : State) : State :=
  { s with contexts := s.contexts.filter fun c => !(c.port == key.1 && c.tag == key.2) }

/-- The read data of a response that carries none of its own: count zero pixels for a READ (R2, R12). -/
def zeroData (b : Body) : List Pixel :=
  match b with
  | .read n => List.replicate n 0
  | .write _ => []

/-! ## Tests at the intake (R17, R141) -/

/-- R17: a held request of the same port touches one of the tiles. -/
def sharesHeldTile (p : Port) (ts : List BankTile) (s : State) : Bool :=
  s.engine.hold.any fun key =>
    key.1 == p &&
      match contextOf key s with
      | none => false
      | some c => c.tiles.any fun t => ts.contains t

/-- R141: a request of the current generation must be held in DRAINING or RELOCATING while one of its tiles is pending
or in operation; a request of an older generation is not tested. -/
def mustHold (c : Context) (s : State) : Bool :=
  (s.ctrl.state == .draining || s.ctrl.state == .relocating) && c.generation == s.ctrl.generation
    && !tilesFinished s.engine.map c.tiles

/-! ## Acknowledgement and host writes to the notice record (R165, R166) -/

/-- R165: the notice acknowledge mode in force, READ while the shadow table is empty. -/
def ackMode (s : State) : AckMode :=
  match s.cmd.shadow with
  | none => .read
  | some t => t.ackMode

/-- R166: the completion of a host write to the notice record makes the notice record due. -/
def hostWriteDone (key : Key) (s : State) : State :=
  onNotice (fun n => { n with hostWrites := n.hostWrites.filter (fun k => k ≠ key)
                              noticeWriter := writerChanged n.noticeWriter }) s

/-- R10, R165: what the sending of a forwarded request's response reports to the notice unit: the completion of a write
to the notice record, or, in READ mode, the word that a read of it returned. -/
def reportForwarded (p : Port) (r : Request) (data : List Pixel) (s : State) : State :=
  if writesNoticeRecord r then hostWriteDone (p, r.tag) s
  else
    match noticeReadPosition r, ackMode s with
    | some i, .read => onNotice (acknowledgeWord (data.getD i 0)) s
    | _, _ => s

/-- The report that a ready response makes when it is sent. -/
def reportSent (p : Port) (rr : ReadyResponse) (s : State) : State :=
  match rr.origin with
  | .forwarded r => reportForwarded p r rr.response.data s
  | _ => s

/-! ## Aborts of RESTART (R19, R151) -/

/-- An ABORTED response, its read data count zero pixels (R2). -/
def abortedReady (tag : Tag) (kind : Kind) (count : Nat) : ReadyResponse :=
  { response := { tag := tag, result := .aborted, data := if kind = .read then List.replicate count 0 else [] }
    origin := .aborted }

/-- An ABORTED response to a request standing at intake. -/
def abortedRequest (r : Request) : ReadyResponse := abortedReady r.tag (bodyKind r.body) (bodyCount r.body)

/-- R19: the requests of an intake place that RESTART answers ABORTED at once: whatever stands there, but for one in
WAIT_TAG whose tag is still outstanding. -/
def placeAborts (q : PortState) : List Request :=
  match q.place with
  | .empty => []
  | .waitTag r _ => if q.tags.contains r.tag then [] else [r]
  | .waitTable r | .waitHold r | .waitOrder r => [r]

/-- R19: the intake place after RESTART: EMPTY, but for a request in WAIT_TAG that must wait for its ABORTED. -/
def placeAfterAbort (q : PortState) : Place :=
  match q.place with
  | .waitTag r _ => if q.tags.contains r.tag then .waitTag r true else .empty
  | _ => .empty

/-- The held requests of a port with their ABORTED responses. -/
def heldAborts (p : Port) (s : State) : List ReadyResponse :=
  (s.engine.hold.filter fun k => k.1 == p).filterMap fun k =>
    (contextOf k s).map fun c => abortedReady c.tag c.kind c.count

/-- R19, R151: a port's requests at intake and in the hold queue are answered ABORTED together. A request aborted before
its acceptance has its tag outstanding until the response has been sent (log 10). -/
def abortPort (p : Port) (s : State) : State :=
  let q := portOf p s
  let here := placeAborts q
  setPort p { q with
    place := placeAfterAbort q
    tags := q.tags ++ (here.map (·.tag)).filter fun t => !q.tags.contains t
    ready := appendGroup q.ready (here.map abortedRequest ++ heldAborts p s) } s

/-- The keys of the requests that RESTART aborts at once. -/
def abortedKeys (s : State) : List Key :=
  s.engine.hold ++ (placeAborts s.up0).map (fun r => (Port.up0, r.tag))
    ++ (placeAborts s.up1).map fun r => (Port.up1, r.tag)

/-- R19: the requests in both intake places and in the hold queue are answered ABORTED and their contexts discarded. -/
def abortWaiting (s : State) : State :=
  let keys := abortedKeys s
  let s := abortPort .up1 (abortPort .up0 s)
  { s with
    contexts := s.contexts.filter fun c => !keys.contains (c.port, c.tag)
    engine := { s.engine with hold := [] } }

/-! ## Sending a response (R2) -/

/-- R19: a request that waits in WAIT_TAG with the abort mark is answered ABORTED once the earlier response with its
tag has been sent. -/
def abortAfterTag (p : Port) (tag : Tag) (s : State) : State :=
  match (portOf p s).place with
  | .waitTag r true =>
    if r.tag = tag then makeReady p (abortedRequest r) (markTag p tag (setPlace p .empty s)) else s
  | _ => s

/-- R2: the ready response of a port with this tag, where it may be sent next: no other became ready before it. -/
def nextResponse (p : Port) (tag : Tag) (s : State) : Option ReadyResponse :=
  match (portOf p s).ready with
  | [] => none
  | g :: _ => g.find? fun rr => rr.response.tag == tag

/-- R2: the port's ready responses without the one sent. -/
def withoutSent (tag : Tag) : List (List ReadyResponse) → List (List ReadyResponse)
  | [] => []
  | g :: gs =>
    let g' := g.filter fun rr => rr.response.tag != tag
    if g'.isEmpty then gs else g' :: gs

/-- R2, R7, R10, R107: a port sends a ready response: its tag is free, its context discarded, the notice unit told of a
notice record access, the write leaves the old-write set, and a request marked by RESTART is answered. -/
def sendResponse (p : Port) (rr : ReadyResponse) (s : State) : State :=
  let tag := rr.response.tag
  let q := portOf p s
  let s := setPort p { q with ready := withoutSent tag q.ready, tags := q.tags.erase tag, sent := some rr.response } s
  abortAfterTag p tag (leaveOldWrites (p, tag) (reportSent p rr (dropContext (p, tag) s)))

end Sys2Proof.Machine
end

