-- ==== Sys2Proof/Machine/Monitor.lean ====
section
/-!
DEFINITION. The posture monitor's shared operations: polls, hinge states, the filter, matching, the settle and fallback
timers, FORCE, RELEASE, a new table and RESTART (05 R79 to R98).
-/
namespace Sys2Proof.Machine

/-- A change of the posture monitor alone. -/
def onMonitor (f : Monitor → Monitor) (s : State) : State := { s with monitor := f s.monitor }

/-- A hinge of the monitor. -/
def hingeOf (h : HingeId) (m : Monitor) : Hinge :=
  match h with
  | .h1 => m.h1
  | .h2 => m.h2

/-- The monitor with one hinge changed. -/
def setHinge (h : HingeId) (g : Hinge) (m : Monitor) : Monitor :=
  match h with
  | .h1 => { m with h1 := g }
  | .h2 => { m with h2 := g }

/-- Both hinges are PRESENT. -/
def bothPresent (m : Monitor) : Bool := m.h1.state == .present && m.h2.state == .present

/-! ## Polls (R79 to R81) -/

/-- R80, R179: a poll of hinge `h` begins: its frame takes 8 bits at 400 kHz, 20 µs (log 17), and both lines carry it. -/
def beginPoll (h : HingeId) (s : State) : State :=
  let s := onMonitor (fun m => { m with poll := some { hinge := h, frame := pollFrame h, frameEnd := s.now + 20 } }) s
  { s with pins := { s.pins with sensClk := .carrying, sensDat := .carrying } }

/-- R79, R179: the poll of `h` has ended: H2 is polled after H1, and after H2 the round has ended and both lines rest. -/
def continueRound (h : HingeId) (s : State) : State :=
  match h with
  | .h1 => beginPoll .h2 s
  | .h2 =>
    let s := onMonitor (fun m => { m with poll := none }) s
    { s with pins := { s.pins with sensClk := .released, sensDat := .released } }

/-- R79: the sensor poll period in ms, 5 while the shadow table is empty. -/
def pollPeriod (s : State) : Nat :=
  match s.cmd.shadow with
  | none => 5
  | some t => t.pollMs

/-- R81: the poll of `h` ended with reply `f` is a valid reply: check byte, echo and VALID, in this order. -/
def replyIsValid (h : HingeId) (f : ReplyFrame) : Bool :=
  replyCheckHolds f && replyEcho f == hingeAddress h && replyValid f

/-- R81: the angle a valid reply carries: above 720 it is taken as 720. -/
def clampAngle (a : Nat) : Nat := min 720 a

/-! ## Hinge state and filter (R82, R84) -/

/-- R84: an angle joins the end of a history of at most 4. -/
def joinHistory (h : List Nat) (a : Nat) : List Nat :=
  if h.length < 4 then h ++ [a] else h.drop (h.length - 3) ++ [a]

/-- R84: the floor of the mean. -/
def meanAngle (h : List Nat) : Nat := h.sum / h.length

/-- R82, R84: a valid reply of angle `a` acts on a hinge. -/
def hingeValid (a : Nat) (g : Hinge) : Hinge :=
  let hist := joinHistory g.history a
  match g.state with
  | .present => { g with missRun := 0, history := hist, filtered := meanAngle hist }
  | .unknown | .lost =>
    if 4 ≤ g.validRun + 1 then
      { state := .present, validRun := 4, missRun := 0, history := hist, filtered := meanAngle hist }
    else { g with validRun := g.validRun + 1, history := hist }

/-- R82, R84: a miss acts on a hinge. The miss run stands at 3 on entry to LOST (log 12). -/
def hingeMiss (g : Hinge) : Hinge :=
  match g.state with
  | .present =>
    if 3 ≤ g.missRun + 1 then { g with state := .lost, validRun := 0, missRun := 3, history := [] }
    else { g with missRun := g.missRun + 1 }
  | .unknown | .lost => { g with validRun := 0 }

/-- R83: the hinge edge mode in force, LOSS_ONLY while the shadow table is empty. -/
def hingeEdge (s : State) : EdgeMode :=
  match s.cmd.shadow with
  | none => .lossOnly
  | some t => t.hingeEdge

/-- R83: a change of a hinge state raises HINGE_CHANGE as the edge mode allows: an entry to LOST in either mode, an
entry to PRESENT in BOTH alone. -/
def noticeHinge (before after : HingeState) (s : State) : State :=
  if before = after then s
  else if after = .lost ∨ hingeEdge s = .both then raise .hingeChange s
  else s

/-! ## The fallback timer (R91) -/

/-- R91: the fallback timer after a change of a hinge state: IDLE once both hinges are PRESENT; from IDLE, RUNNING once
one is not, unless the controller is LOADING. -/
def checkFallback (s : State) : State :=
  if bothPresent s.monitor then onMonitor (fun m => { m with fallback := .idle }) s
  else if s.ctrl.state = .loading then s
  else
    match s.monitor.fallback, s.cmd.shadow with
    | .idle, some t => onMonitor (fun m => { m with fallback := .running (s.now + t.fallbackMs * 1000) }) s
    | _, _ => s

/-! ## Matching (R85 to R88) -/

/-- R24: a window contains an angle. -/
def windowHolds (w : AngleWindow) (a : Nat) : Bool := decide (w.lo ≤ a) && decide (a ≤ w.hi)

/-- R87: a window widened by the hysteresis margin, not below 0 nor above 720. -/
def widenWindow (margin : Nat) (w : AngleWindow) : AngleWindow := { lo := w.lo - margin, hi := min 720 (w.hi + margin) }

/-- R87: the filtered angles lie in the record's windows, widened by `margin`. -/
def recordMatches (margin : Nat) (m : Monitor) (r : LayoutRecord) : Bool :=
  windowHolds (widenWindow margin r.win1) m.h1.filtered && windowHolds (widenWindow margin r.win2) m.h2.filtered

/-- R87: the search, in table order, over records of a number other than 0, windows unwidened. -/
def searchCandidate (t : Table) (m : Monitor) : Option Nat :=
  (t.records.find? fun r => r.number != 0 && windowHolds r.win1 m.h1.filtered && windowHolds r.win2 m.h2.filtered).map
    (·.number)

/-- R87: the candidate: the intended layout where it is not 0, the table holds it and the hysteresis test passes;
otherwise what the search finds. -/
def findCandidate (t : Table) (intended : Option Nat) (m : Monitor) : Option Nat :=
  match intended with
  | none => searchCandidate t m
  | some n =>
    if n = 0 then searchCandidate t m
    else
      match tableRecord t n with
      | none => searchCandidate t m
      | some r => if recordMatches t.hysteresis m r then some n else searchCandidate t m

/-- The settle timer names layout `c` (R88). -/
def settleNames (st : SettleTimer) (c : Nat) : Bool :=
  match st with
  | .running n _ | .expired n => n == c
  | .idle => false

/-- The settle timer RUNNING(c), due after the settle time of layout `c` as the table gives it at this moment (R88). -/
def startSettle (t : Table) (c : Nat) (s : State) : State :=
  match tableRecord t c with
  | none => s
  | some r => onMonitor (fun m => { m with settle := .running c (s.now + r.settleMs * 1000) }) s

/-- R88: the settle timer acts on the candidate found. -/
def settleOnMatch (t : Table) (intended c : Option Nat) (s : State) : State :=
  match c with
  | none => onMonitor (fun m => { m with settle := .idle }) s
  | some n =>
    if c = intended then onMonitor (fun m => { m with settle := .idle }) s
    else if settleNames s.monitor.settle n then s
    else startSettle t n s

/-- R85, R87, R88: matching, where both hinges are PRESENT and the controller has left LOADING. -/
def runMatching (s : State) : State :=
  if bothPresent s.monitor = true ∧ s.ctrl.state ≠ .loading then
    match s.cmd.shadow with
    | none => s
    | some t =>
      let intended := intendedLayout s
      let c := findCandidate t intended s.monitor
      settleOnMatch t intended c (onMonitor (fun m => { m with candidate := c }) s)
  else s

/-! ## The end of a poll (R81 to R85, R91) -/

/-- A hinge takes its new value; a change of its state raises HINGE_CHANGE and acts on the fallback timer. -/
def updateHinge (h : HingeId) (g : Hinge) (s : State) : State :=
  let before := (hingeOf h s.monitor).state
  let s := noticeHinge before g.state (onMonitor (setHinge h g) s)
  if before = g.state then s else checkFallback s

/-- R81, R82: a poll of `h` ends as a miss. -/
def pollMiss (h : HingeId) (s : State) : State :=
  updateHinge h (hingeMiss (hingeOf h s.monitor)) (countEvent .misses 1 s)

/-- R81, R82, R84, R85: a poll of `h` ends with a valid reply whose angle field is `a`. -/
def pollValid (h : HingeId) (a : Nat) (s : State) : State :=
  let s := if 720 < a then countEvent .clamps 1 s else s
  runMatching (updateHinge h (hingeValid (clampAngle a) (hingeOf h s.monitor)) s)

/-- R81: a poll of `h` ends with reply `f`. -/
def pollReply (h : HingeId) (f : ReplyFrame) (s : State) : State :=
  if replyIsValid h f then pollValid h (replyAngle f) s else pollMiss h s

/-- R81: what the monitor judges of a poll of `h` whose reply frame `f` begins `start` µs after the poll frame: a reply
that begins after the limit is not read. -/
def judgePoll (h : HingeId) (start : Nat) (f : ReplyFrame) (s : State) : State :=
  if start ≤ replyLimit then pollReply h f s else pollMiss h s

/-! ## Timers' expiry (R89, R92) -/

/-- R89: the settle timer for layout `n` expires; without FORCE a request is sent. -/
def settleExpires (n : Nat) (s : State) : State :=
  let s := onMonitor (fun m => { m with settle := .expired n }) s
  match s.monitor.override with
  | none => layoutRequest n s
  | some _ => s

/-- R92: the fallback timer expires; without FORCE, and with an intended layout other than 0, layout 0 is requested and
FALLBACK_TAKEN raised. -/
def fallbackExpires (s : State) : State :=
  let intended := intendedLayout s
  let s := onMonitor (fun m => { m with fallback := .spent }) s
  match s.monitor.override, intended with
  | none, some n => if n = 0 then s else raise .fallbackTaken (layoutRequest 0 s)
  | _, _ => s

/-! ## FORCE, RELEASE, a new table, RESTART (R93 to R98) -/

/-- R93: FORCE n is handed over: the override is set and a request for layout n sent. -/
def monitorForce (n : Nat) (s : State) : State :=
  layoutRequest n (onMonitor (fun m => { m with override := some n }) s)

/-- R94: RELEASE is handed over: no override, and a candidate other than the intended layout starts its settle time. -/
def monitorRelease (s : State) : State :=
  let s := onMonitor (fun m => { m with override := none }) s
  match s.monitor.candidate, s.cmd.shadow with
  | some c, some t => if intendedLayout s = some c then s else startSettle t c s
  | _, _ => s

/-- R95: the shadow table has been replaced by `t`. -/
def monitorNewTable (t : Table) (s : State) : State :=
  onMonitor (fun m => { m with
    candidate := none, settle := .idle
    override := match m.override with
      | none => none
      | some n => if (tableRecord t n).isSome then some n else none }) s

/-- R98: a hinge at RESTART: UNKNOWN, runs 0, history empty, the filtered angle kept. -/
def hingeRestart (g : Hinge) : Hinge :=
  { state := .unknown, validRun := 0, missRun := 0, history := [], filtered := g.filtered }

/-- R98, R161: the monitor at RESTART; the fallback timer starts, or stays IDLE in LOADING. -/
def monitorRestart (s : State) : State :=
  onMonitor (fun m => { m with
    h1 := hingeRestart m.h1, h2 := hingeRestart m.h2
    candidate := none, settle := .idle, override := none
    fallback := match s.ctrl.state, s.cmd.shadow with
      | .loading, _ => .idle
      | _, none => .idle
      | _, some t => .running (s.now + t.fallbackMs * 1000) }) s

end Sys2Proof.Machine
end

