-- ==== Sys2Proof/Machine/Command.lean ====
section
/-!
DEFINITION. The command block's shared operations: taking a command word, the table load, FORCE, RELEASE, REPORT and
RESTART (08 R153 to R162).
-/
namespace Sys2Proof.Machine

/-- A change of the command block alone. -/
def onCmd (f : CommandBlock → CommandBlock) (s : State) : State := { s with cmd := f s.cmd }

/-- A change of the load running, if one runs. -/
def onLoad (f : TableLoad → TableLoad) (s : State) : State := onCmd (fun c => { c with load := c.load.map f }) s

/-! ## The table load (R155 to R157) -/

/-- R155: the load that a PUBLISH of sequence `seq` begins: marks clear, the read of the first 16 bytes to issue. -/
def newLoad (seq : Byte) : TableLoad :=
  { seq := seq, disturbed := false, readFailed := false, abandoned := false, awaitingHead := true, bytes := []
    length := 0, toIssue := [(tableAreaBase, 4)], inFlight := 0 }

/-- R155: ascending reads of 64 pixels from byte address `a`, the last one shorter, for `n` pixels; `fuel` bounds the
number of reads. -/
def readsOf : (fuel a n : Nat) → List (Nat × Nat)
  | 0, _, _ => []
  | fuel + 1, a, n => if n = 0 then [] else (a, min 64 n) :: readsOf fuel (a + 256) (n - min 64 n)

/-- R155: the reads for the rest of an image of `length` bytes: bytes 16 to length − 1 in whole pixels. -/
def remainderReads (length : Nat) : List (Nat × Nat) := readsOf 6 (tableAreaBase + 16) ((length - 16 + 2) / 4)

/-- R155: a table load begins. -/
def beginLoad (seq : Byte) (s : State) : State :=
  onCtrl (fun c => { c with loadHold := true }) (onCmd (fun c => { c with load := some (newLoad seq) }) s)

/-- R40, R157: the shadow table is replaced and its source recorded. -/
def replaceTable (t : Table) (src : TableSource) (s : State) : State :=
  onCmd (fun c => { c with shadow := some t, source := src }) s

/-- R157: the end of a load that is not taken: the hold is OFF and the slot resolved, TABLE_REJECTED raised, the
response formed. -/
def endLoadRejected (seq : Byte) (result : CommandResult) (detail : BitVec 16) (s : State) : State :=
  respond seq result detail (raise .tableRejected (endLoadKept s))

/-- R157: the end of a load with result loaded. -/
def endLoadTaken (seq : Byte) (t : Table) (s : State) : State :=
  respond seq .done 0 (raise .tableLoaded (endLoadReplaced t (monitorNewTable t (replaceTable t .memory s))))

/-- R157: the end of load `l`: disturbed, unreadable, invalid or loaded, tested in this order. -/
def endLoad (l : TableLoad) (s : State) : State :=
  let s := onCmd (fun c => { c with load := none }) s
  let img := if l.awaitingHead then l.bytes else l.bytes.take l.length
  if l.disturbed then endLoadRejected l.seq .tableDisturbed 0 s
  else if l.readFailed then endLoadRejected l.seq .tableRejected (packDetail unreadableDetail) s
  else
    match validate img with
    | some d => endLoadRejected l.seq .tableRejected (packDetail d) s
    | none => endLoadTaken l.seq (tableOfImage img) s

/-- R156: a memory error on a read of the load: the mark, and at the first one a counted memory error. -/
def loadReadFails (l : TableLoad) (s : State) : State := if l.readFailed then s else countMemoryError s

/-- R155, R156: the answer to a read of load `l` that RESTART has not abandoned. -/
def loadAnswer (l : TableLoad) (a : Answer) (s : State) : State :=
  let l := { l with inFlight := l.inFlight - 1 }
  match a with
  | .memoryError =>
    let s := loadReadFails l s
    let l := { l with readFailed := true, toIssue := [] }
    if l.awaitingHead ∨ l.inFlight = 0 then endLoad l s else onCmd (fun c => { c with load := some l }) s
  | .ok data =>
    let l := { l with bytes := l.bytes ++ bytesOfPixels data }
    if l.awaitingHead then
      match formatHeadFailure l.bytes with
      | some _ => endLoad l s
      | none =>
        onCmd (fun c => { c with load := some { l with
          awaitingHead := false, length := imageLength l.bytes, toIssue := remainderReads (imageLength l.bytes) } }) s
    else if l.toIssue = [] ∧ l.inFlight = 0 then endLoad l s
    else onCmd (fun c => { c with load := some l }) s

/-- R160: an answer to a read of an abandoned load is dropped; the load runs until the last of them. -/
def dropLoadAnswer (s : State) : State :=
  onCmd (fun c => { c with load := match c.load with
    | none => none
    | some l => if l.inFlight ≤ 1 then none else some { l with inFlight := l.inFlight - 1 } }) s

/-! ## RESTART (R160, R161) -/

/-- R160 step 1: a running load is abandoned: it issues no further read and runs on only while reads are in flight. -/
def abandonLoad (s : State) : State :=
  onCmd (fun c => { c with load := match c.load with
    | none => none
    | some l => if l.inFlight = 0 then none else some { l with abandoned := true, toIssue := [] } }) s

/-- R160 step 1, R170: a response formed and not yet written is discarded, a counts write that waits, or is ready and not
granted (log 30), is discarded, and both leave the order of the ready writes (R166); a counts write in flight is marked,
and REPORTs in progress lose their responses. -/
def discardReports (n : NoticeUnit) : NoticeUnit :=
  { n with
    responseNext := none
    countsNext := none
    countsBusy := n.countsBusy.map fun _ => { reports := [], overtaken := true }
    readyQueue := keepWriters (fun w => w != .response && w != .counts) n.readyQueue }

/-- R151: a buffer at RESTART: READING and WRITING become DISCARDING with their unanswered requests, and with none they
are EMPTY at once (R152). -/
def discardBuffer : TileBuffer → TileBuffer
  | .empty => .empty
  | .reading r => if r.issued - r.answered = 0 then .empty else .discarding (r.issued - r.answered)
  | .writing w => if w.issued - w.answered = 0 then .empty else .discarding (w.issued - w.answered)
  | .discarding n => .discarding n

/-- R151: the promotion queue is emptied and the buffers begin discarding. -/
def engineRestart (e : Engine) : Engine :=
  { e with promotion := [], tb0 := discardBuffer e.tb0, tb1 := discardBuffer e.tb1 }

/-- R160 step 4, R170: the counters, their flags, the frame count and the notice set are cleared. -/
def noticeRestart (n : NoticeUnit) : NoticeUnit := clearKinds { n with counters := Counters.zero, frameCount := 0 }

/-- R160: RESTART outside LOADING, its six steps in order. -/
def restartRunning (seq : Byte) (s : State) : State :=
  let s := onNotice discardReports (abandonLoad s)
  let s := onEngine engineRestart (abortWaiting s)
  let s := monitorRestart s
  let s := onNotice noticeRestart s
  let s := restartCommit s
  respond seq .done 0 s

/-- R161: RESTART in LOADING. -/
def restartLoading (seq : Byte) (s : State) : State :=
  respond seq .done 0 (onNotice noticeRestart (monitorRestart (abortWaiting s)))

/-! ## Taking a command (R153, R154) -/

/-- R154: the outcome is BUSY for every command but RESTART: the controller is LOADING or a load is running. -/
def commandBusy (s : State) : Bool := s.ctrl.state == .loading || s.cmd.load.isSome

/-- R154, R155: PUBLISH is taken. -/
def takePublish (seq : Byte) (s : State) : State :=
  if commandBusy s = true ∨ s.ctrl.state ≠ .steady then respond seq .busy 0 s else beginLoad seq s

/-- R158: the shadow table holds a record numbered `n`, with `n` at most 15. -/
def layoutHeld (n : Nat) (s : State) : Bool :=
  decide (n ≤ 15) &&
    match s.cmd.shadow with
    | none => false
    | some t => (tableRecord t n).isSome

/-- R154, R158: FORCE is taken with argument `arg`. -/
def takeForce (seq : Byte) (arg : BitVec 16) (s : State) : State :=
  if commandBusy s then respond seq .busy 0 s
  else if layoutHeld arg.toNat s then respond seq .done 0 (monitorForce arg.toNat s)
  else respond seq .badArgument arg s

/-- R154, R158: RELEASE is taken. -/
def takeRelease (seq : Byte) (s : State) : State :=
  if commandBusy s then respond seq .busy 0 s else respond seq .done 0 (monitorRelease s)

/-- R154, R159: REPORT is taken: a transfer that carries it. -/
def takeReport (seq : Byte) (s : State) : State :=
  if commandBusy s then respond seq .busy 0 s else onNotice (transferCounts [seq]) s

/-- R154, R160, R161: RESTART is taken. -/
def takeRestart (seq : Byte) (s : State) : State :=
  if s.ctrl.state = .loading then restartLoading seq s else restartRunning seq s

/-- R154: a taken command acts according to its code; an unknown code is answered BAD_COMMAND with the code as detail. -/
def runCommand (seq code : Byte) (arg : BitVec 16) (s : State) : State :=
  if code = 0x01#8 then takePublish seq s
  else if code = 0x02#8 then takeForce seq arg s
  else if code = 0x03#8 then takeRelease seq s
  else if code = 0x04#8 then takeReport seq s
  else if code = 0x0F#8 then takeRestart seq s
  else respond seq .badCommand (code.setWidth 16) s

/-- R153: the intake reports command word `w`: it is taken where its sequence differs from the last taken one. -/
def reportCommandWord (w : Pixel) (s : State) : State :=
  if commandSeq w = s.cmd.lastSeq then s
  else runCommand (commandSeq w) (commandCode w) (commandArg w) (onCmd (fun c => { c with lastSeq := commandSeq w }) s)

end Sys2Proof.Machine
end

