-- ==== Sys2Proof/Machine/Intake.lean ====
section
/-!
DEFINITION. The intake's shared operations: the steps of R6 for a presented request, reception by the remap unit (R46),
the watch points (R10) and the end of a wait (R8).
-/
namespace Sys2Proof.Machine

/-! ## Watch points (R10) -/

/-- R165: a host write of the notice record is accepted: in WRITE mode the kinds marked in the written word are removed;
the write is outstanding until its response is sent (R166). -/
def reportNoticeWrite (p : Port) (r : Request) (w : Pixel) (s : State) : State :=
  let s := onNotice (fun n => { n with hostWrites := n.hostWrites ++ [(p, r.tag)] }) s
  match ackMode s with
  | .write => onNotice (acknowledgeWord w) s
  | .read => s

/-- R156: a write with an unmasked pixel in the table area disturbs a running load. -/
def reportTableWrite (s : State) : State := onLoad (fun l => { l with disturbed := true }) s

/-- R10: what the acceptance of a system window write reports to the watch points. -/
def reportWatched (p : Port) (r : Request) (s : State) : State :=
  let s := match wordWrittenAt r noticeRecordAddress with
    | some w => reportNoticeWrite p r w s
    | none => s
  let s := if writesTableArea r then reportTableWrite s else s
  match wordWrittenAt r commandWordAddress with
  | some w => reportCommandWord w s
  | none => s

/-! ## Routing (R6 step 5, R11, R17) -/

/-- R11, R17: the tests on an accepted surface request with context `c`, from the hold test on: a tile shared with a held
request of its port, WAIT_ORDER; a request to be held enters the hold queue, or WAIT_HOLD when that holds 16; any other
joins its path list. -/
def routeSurface (p : Port) (r : Request) (c : Context) (s : State) : State :=
  if sharesHeldTile p c.tiles s then setPlace p (.waitOrder r) s
  else if mustHold c s then
    if s.engine.hold.length < 16 then enterHold (p, r.tag) c.tiles (setPlace p .empty s)
    else setPlace p (.waitHold r) s
  else joinPath p (.surface r.tag) (setPlace p .empty s)

/-- R9, R17: the order test on an accepted raw bank window request, which then joins its path list. -/
def routeRaw (p : Port) (r : Request) (s : State) : State :=
  if sharesHeldTile p (rawTiles r) s then setPlace p (.waitOrder r) s
  else joinPath p (.forward r) (setPlace p .empty s)

/-- R10: an accepted system window request joins its path list and is reported to the watch points. -/
def routeSystem (p : Port) (r : Request) (s : State) : State :=
  reportWatched p r (joinPath p (.forward r) (setPlace p .empty s))

/-! ## Reception (R46, R50) -/

/-- R50: the governing record copy at reception: the active record in STEADY, the target record in a transition. -/
def governingRecord (s : State) : RecordCopy :=
  match s.ctrl.state with
  | .steady => s.ctrl.active.getD blankRecord
  | _ => s.ctrl.target.getD blankRecord

/-- R50: the bank at reception: the front bank in STEADY, the back bank in a transition. -/
def governingBank (s : State) : Bank :=
  match s.ctrl.state with
  | .steady => s.ctrl.frontBank
  | _ => backBank s

/-- R46: the context of a surface request received now. -/
def receive (p : Port) (k : Nat) (r : Request) (s : State) : Context :=
  makeContext p s.ctrl.generation (governingRecord s) (governingBank s) (snapshotOf s.cmd.shadow k) k r

/-- R6 steps 4 and 5, R12, R46, R49 for a surface request: its tag is outstanding, its context computed, its dropped
pixels counted; with no fragment it is answered OKAY, otherwise it is routed. -/
def acceptSurface (p : Port) (k : Nat) (r : Request) (s : State) : State :=
  let c := receive p k r s
  let dropped := droppedPixels k c.snapshot c.record r
  let s := markTag p r.tag s
  let s := countEvent .clipped dropped { s with contexts := s.contexts ++ [c] }
  if c.fragments.isEmpty then
    makeReady p { response := { tag := r.tag, result := .okay, data := zeroData r.body }, origin := .surface }
      (setPlace p .empty s)
  else routeSurface p r c s

/-- R6 steps 4 and 5 for a request of window `w`. -/
def acceptRequest (p : Port) (w : Window) (r : Request) (s : State) : State :=
  match w with
  | .raw => routeRaw p r (markTag p r.tag s)
  | .system => routeSystem p r (markTag p r.tag s)
  | .surface k => acceptSurface p k r s

/-- R5: the request is refused: ADDRERR with count zero pixels, one address error, its tag outstanding until the
response is sent. -/
def refuseRequest (p : Port) (r : Request) (s : State) : State :=
  makeReady p { response := { tag := r.tag, result := .addrErr, data := zeroData r.body }, origin := .refused }
    (setPlace p .empty (markTag p r.tag (countEvent .addressErrors 1 s)))

/-- A surface window (R6 step 3). -/
def isSurface : Window → Bool
  | .surface _ => true
  | _ => false

/-- R6 from step 2 on: window tests, table, acceptance and routing. -/
def admitRequest (p : Port) (r : Request) (s : State) : State :=
  match admittedWindow r with
  | none => refuseRequest p r s
  | some w =>
    if isSurface w = true ∧ s.ctrl.state = .loading then setPlace p (.waitTable r) s else acceptRequest p w r s

/-- R6: a request is presented in an EMPTY intake place. -/
def presentRequest (p : Port) (r : Request) (s : State) : State :=
  if tagOutstanding p r.tag s then setPlace p (.waitTag r false) s else admitRequest p r s

/-- REQUEST_PRESENT and the rows that narrow it: the request must be one that can be presented, and the place EMPTY. -/
def present (p : Port) (r : Request) (s : State) : Host.Outcome State Fault Refusal :=
  whileReleased s <|
    if presentable r = false then .refused .illFormed
    else if (portOf p s).place = .empty then happens s (presentRequest p r s)
    else .refused .portStalled

/-! ## The end of a wait (R8) -/

/-- R8: an accepted request that waited in WAIT_HOLD or WAIT_ORDER is tested again from the hold test on. -/
def routeAgain (p : Port) (r : Request) (s : State) : State :=
  match contextOf (p, r.tag) s with
  | some c => routeSurface p r c s
  | none => routeRaw p r s

/-- R8: the cause of an accepted request's wait for the hold queue has passed. -/
def holdWaitOver (p : Port) (r : Request) (s : State) : Bool :=
  decide (s.engine.hold.length < 16) ||
    match contextOf (p, r.tag) s with
    | none => true
    | some c => !mustHold c s

/-- The tiles of an accepted request that waits for the order test (R17). -/
def waitingTiles (p : Port) (r : Request) (s : State) : List BankTile :=
  match contextOf (p, r.tag) s with
  | some c => c.tiles
  | none => rawTiles r

/-- R6, R8: the state after the wait in a port's intake place ends, where its cause has passed. -/
def endWait (p : Port) (s : State) : Option State :=
  match (portOf p s).place with
  | .empty => none
  | .waitTag r abort =>
    if tagOutstanding p r.tag s then none
    else if abort then some (makeReady p (abortedRequest r) (markTag p r.tag (setPlace p .empty s)))
    else some (admitRequest p r s)
  | .waitTable r => if s.ctrl.state = .loading then none else some (admitRequest p r s)
  | .waitHold r => if holdWaitOver p r s then some (routeAgain p r s) else none
  | .waitOrder r => if sharesHeldTile p (waitingTiles p r s) s then none else some (routeAgain p r s)

/-- R174 step 4: a surface request waiting in WAIT_TABLE at a port goes on to acceptance. -/
def admitWaiting (p : Port) (s : State) : State :=
  match (portOf p s).place with
  | .waitTable r => admitRequest p r s
  | _ => s

end Sys2Proof.Machine
end

