-- ==== Sys2Proof/Machine/BootFamily.lean ====
section
/-!
DEFINITION. Meanings of the boot loader's commands: BOOT_HEAD_READ_END, BOOT_BODY_READ_END, BOOT_CHECK_END (10 R171 to
R174).
-/
namespace Sys2Proof.Machine

/-- A change of the boot loader alone. -/
def onBoot (f : BootLoader → BootLoader) (s : State) : State := { s with boot := f s.boot }

/-- R172: a transaction has ended: SPI_CS_N high, SPI_CLK at rest low, SPI_MOSI at a level no rule gives (log 9). -/
def restSpi (s : State) : State :=
  { s with
    pins := { s.pins with spiCsN := .driven true, spiClk := .driven false
                          spiMosi := .driven (Config.mosiRest s.freeUses) }
    freeUses := s.freeUses + 1 }

/-- R172: a read transaction at a store offset begins. -/
def beginSpi (offset count : Nat) (s : State) : State :=
  let s := onBoot (fun b => { b with spi := some { sent := spiCommand offset, count := count } }) s
  { s with pins := { s.pins with spiCsN := .driven false, spiClk := .carrying, spiMosi := .carrying } }

/-- R173: the head read has ended with these bytes: FORMAT checks 1 to 3 decide between CHECK and the body read. -/
def headReadEnds (bytes : List Byte) (s : State) : State :=
  let s := onBoot (fun b => { b with bytes := bytes, length := some (imageLength bytes), spi := none }) s
  match formatHeadFailure bytes with
  | some _ => restSpi (onBoot (fun b => { b with state := .check }) s)
  | none => beginSpi 16 (imageLength bytes - 16) (onBoot (fun b => { b with state := .readBody }) s)

/-- R173: the body read has ended with these bytes, which are appended to the head. -/
def bodyReadEnds (bytes : List Byte) (s : State) : State :=
  restSpi (onBoot (fun b => { b with state := .check, bytes := b.bytes ++ bytes, spi := none }) s)

/-- R174 step 1: the table taken at the end of CHECK. -/
def takeBootTable (s : State) : State :=
  match validate s.boot.bytes with
  | none => raise .tableLoaded (replaceTable (tableOfImage s.boot.bytes) .nvm s)
  | some _ => raise .tableRejected (replaceTable builtInTable .builtIn s)

/-- R174: the end of CHECK, its steps in order; `first` is the port whose waiting request goes on first (log 21). -/
def checkEnds (first : Port) (s : State) : State :=
  let s := bootCommit (takeBootTable s)
  let s := admitWaiting (otherPort first) (admitWaiting first s)
  onBoot (fun b => { b with state := .finished, bytes := [] }) (checkFallback s)

/-- BOOT_HEAD_READ_END (R173): the transaction of 16 bytes at offset 0 ends. -/
def execBootHeadReadEnd (bytes : List Byte) (s : State) : Host.Outcome State Fault Refusal :=
  whileReleased s <|
    if s.boot.state = .readHead ∧ bytes.length = 16 then happens s (headReadEnds bytes s) else .refused .bootNotThere

/-- BOOT_BODY_READ_END (R173): the transaction of length − 16 bytes at offset 16 ends. -/
def execBootBodyReadEnd (bytes : List Byte) (s : State) : Host.Outcome State Fault Refusal :=
  whileReleased s <|
    match s.boot.spi with
    | none => .refused .bootNotThere
    | some t =>
      if s.boot.state = .readBody ∧ bytes.length = t.count then happens s (bodyReadEnds bytes s)
      else .refused .bootNotThere

/-- BOOT_CHECK_END (R174). -/
def execBootCheckEnd (first : Port) (s : State) : Host.Outcome State Fault Refusal :=
  whileReleased s <|
    if s.boot.state = .check then happens s (checkEnds first s) else .refused .bootNotThere

end Sys2Proof.Machine
end

