-- ==== Sys2Proof/Machine/CommandFamily.lean ====
section
/-!
DEFINITION. Meanings of the host's commands: each is the presentation of the write that carries the command word, with
the command taken at its acceptance (08 R153 to R161; log 6).
-/
namespace Sys2Proof.Machine

/-- PUBLISH (R155). -/
def execPublish (p : Port) (tag : Tag) (seq : Byte) (arg : BitVec 16) (s : State) : Host.Outcome State Fault Refusal :=
  present p (commandRequest tag seq 0x01 arg) s

/-- FORCE (R158). -/
def execForce (p : Port) (tag : Tag) (seq : Byte) (arg : BitVec 16) (s : State) : Host.Outcome State Fault Refusal :=
  present p (commandRequest tag seq 0x02 arg) s

/-- RELEASE (R94, R158). -/
def execRelease (p : Port) (tag : Tag) (seq : Byte) (arg : BitVec 16) (s : State) : Host.Outcome State Fault Refusal :=
  present p (commandRequest tag seq 0x03 arg) s

/-- REPORT (R159). -/
def execReport (p : Port) (tag : Tag) (seq : Byte) (arg : BitVec 16) (s : State) : Host.Outcome State Fault Refusal :=
  present p (commandRequest tag seq 0x04 arg) s

/-- RESTART (R160, R161). -/
def execRestart (p : Port) (tag : Tag) (seq : Byte) (arg : BitVec 16) (s : State) : Host.Outcome State Fault Refusal :=
  present p (commandRequest tag seq 0x0F arg) s

/-- BAD_COMMAND (R154): a code that names no command. -/
def execBadCommand (p : Port) (tag : Tag) (seq code : Byte) (arg : BitVec 16) (s : State) :
    Host.Outcome State Fault Refusal :=
  if (Instr.badCommand p tag seq code arg).WellFormed then present p (commandRequest tag seq code arg) s
  else .refused .illFormed

end Sys2Proof.Machine
end

