-- ==== Sys2Proof/Machine/Downstream.lean ====
section
/-!
DEFINITION. The downstream port's shared operations: the arbiter and what each requester issues (01 R11, R13, R14;
07 R133; 08 R155; 09 R166, R169), and the answers' effects (R9, R12, R63, R64; 07 R135 to R139, R152).
-/
namespace Sys2Proof.Machine

/-! ## What each requester has to issue -/

/-- A request issued, with the part as its requester leaves it. -/
structure Issue where
  sent : InFlight
  after : State

/-- A request in flight. -/
def inFlightOf (q : Requester) (a : Nat) (b : Body) (o : Owner) : InFlight :=
  { request := { requester := q, address := a, body := b }, owner := o, stale := false }

/-- R60: the downstream body of a fragment. -/
def fragmentBody (c : Context) (f : Fragment) : Body :=
  match c.kind with
  | .read => .read f.count
  | .write => writeAll f.data

/-- A context takes the place of the one with its name. -/
def putContext (c : Context) (s : State) : State :=
  { s with contexts := s.contexts.map fun d => if d.port = c.port ∧ d.tag = c.tag then c else d }

/-- The first fragment not issued, which is the next in issue order (R61). -/
def nextFragment (c : Context) : Option Nat := c.fragments.findIdx? fun f => f.state == .notIssued

/-- A fragment's answer state changes. -/
def setFragment (c : Context) (i : Nat) (f : Fragment → Fragment) : Context :=
  { c with fragments := c.fragments.modify i f }

/-- The oldest request leaves a port's path list (R11). -/
def popPath (p : Port) (s : State) : State := setPort p { portOf p s with path := (portOf p s).path.tail } s

/-- R11: a path requester issues the next downstream request of the oldest request in its list, which leaves the list
with its last one. -/
def pathIssue (p : Port) (s : State) : Option Issue :=
  match (portOf p s).path with
  | [] => none
  | .forward r :: _ =>
    some { sent := inFlightOf (.path p) r.address.toNat r.body (.forward p r), after := popPath p s }
  | .surface tag :: _ =>
    match contextOf (p, tag) s with
    | none => none
    | some c =>
      match nextFragment c with
      | none => none
      | some i =>
        match c.fragments[i]? with
        | none => none
        | some f =>
          let t := putContext (setFragment c i fun g => { g with state := .inFlight }) s
          some { sent := inFlightOf (.path p) f.address (fragmentBody c f) (.fragment p tag i)
                 after := if i + 1 = c.fragments.length then popPath p t else t }

/-- R133: a buffer has a request to issue: READING without the abandon mark, or WRITING, and fewer than 40 issued. -/
def bufferWaits : TileBuffer → Bool
  | .reading r => !r.abandon && decide (r.issued < 40)
  | .writing w => decide (w.issued < 40)
  | _ => false

/-- R133: the buffer whose request is next: of two that have one, the one that did not issue the engine's last. -/
def nextBuffer (e : Engine) : Option BufferId :=
  let other := otherBuffer e.lastIssuer
  if bufferWaits (bufferOf other e) then some other
  else if bufferWaits (bufferOf e.lastIssuer e) then some e.lastIssuer
  else none

/-- R133 to R135: the relocation engine issues the next row of a buffer, rows in order. -/
def relocationIssue (s : State) : Option Issue :=
  match nextBuffer s.engine with
  | none => none
  | some b =>
    match bufferOf b s.engine with
    | .reading r =>
      some { sent := inFlightOf .relocation (rowAddress r.bank r.move.source r.issued) (.read 40) (.row b)
             after := onEngine (fun e =>
               setBuffer b (.reading { r with issued := r.issued + 1 }) { e with lastIssuer := b }) s }
    | .writing w =>
      some { sent := inFlightOf .relocation (rowAddress w.bank w.tile w.issued) (writeAll (w.rows.getD w.issued [])) (.row b)
             after := onEngine (fun e =>
               setBuffer b (.writing { w with issued := w.issued + 1 }) { e with lastIssuer := b }) s }
    | _ => none

/-- R155: the table loader issues its next read. -/
def loaderIssue (s : State) : Option Issue :=
  match s.cmd.load with
  | none => none
  | some l =>
    match l.toIssue with
    | [] => none
    | (a, n) :: rest =>
      some { sent := inFlightOf .loader a (.read n) .loader
             after := onCmd (fun c => { c with load := some { l with toIssue := rest, inFlight := l.inFlight + 1 } }) s }

/-- The write of one record writer, its contents taken at this issue (R166, R178), and the writer's state after it. -/
def recordIssue (w : RecordWriter) (s : State) : Option Issue :=
  let n := s.notice
  match w with
  | .notice =>
    some { sent := inFlightOf .notice noticeRecordAddress (writeAll [noticeWord n.set]) (.record .notice)
           after := onNotice (fun n => { n with noticeWriter := writerIssued n.noticeWriter }) s }
  | .status =>
    some { sent := inFlightOf .notice statusRecordAddress (writeAll (statusWords (statusFields s))) (.record .status)
           after := onNotice (fun n => { n with statusWriter := writerIssued n.statusWriter }) s }
  | .response =>
    match n.responseNext with
    | none => none
    | some r =>
      some { sent := inFlightOf .notice responseRecordAddress (writeAll [responseWord r]) (.record .response)
             after := onNotice (fun n => { n with responseNext := none, responseBusy := true }) s }
  | .counts =>
    match n.countsNext with
    | none => none
    | some c =>
      some { sent := inFlightOf .notice countsRecordAddress (writeAll (countsWords c.counters)) (.record .counts)
             after := onNotice (fun n => { n with
               countsNext := none, countsBusy := some { reports := c.reports, overtaken := false } }) s }

/-- R166: the NOTICE writer whose write is next: of the oldest group, the one picked where it is there (log 21). -/
def nextWriter (pick : RecordWriter) (n : NoticeUnit) : Option RecordWriter :=
  match n.readyQueue with
  | [] => none
  | g :: _ => if g.contains pick then some pick else g.head?

/-- What a requester has ready to issue; it waits when it has something (R13). -/
def requesterIssue (pick : RecordWriter) (q : Requester) (s : State) : Option Issue :=
  match q with
  | .path p => pathIssue p s
  | .relocation => relocationIssue s
  | .loader => loaderIssue s
  | .notice => (nextWriter pick s.notice).bind fun w => recordIssue w s

/-! ## The arbiter (R13, R14) -/

/-- The cyclic order of the five places, beginning after a place. -/
def placesAfter : Requester → List Requester
  | .path .up0 => [.path .up1, .relocation, .loader, .notice, .path .up0]
  | .path .up1 => [.relocation, .loader, .notice, .path .up0, .path .up1]
  | .relocation => [.loader, .notice, .path .up0, .path .up1, .relocation]
  | .loader => [.notice, .path .up0, .path .up1, .relocation, .loader]
  | .notice => [.path .up0, .path .up1, .relocation, .loader, .notice]

/-- R13: the requester waits. -/
def requesterWaits (s : State) (q : Requester) : Bool := (requesterIssue .notice q s).isSome

/-- R13: the first waiting requester found after the last-granted place. -/
def nextRequester (s : State) : Option Requester := (placesAfter s.dn.lastGranted).find? (requesterWaits s)

/-- R14: DN holds at most 48 requests in flight. -/
def dnLimit : Nat := 48

/-- R13, R14: the grant: the request is in flight and the pointer names its requester. -/
def grant (q : Requester) (i : Issue) : State :=
  { i.after with dn := { inFlight := i.after.dn.inFlight ++ [i.sent], lastGranted := q } }

/-! ## Answers (R15) -/

/-- The oldest request in flight leaves DN: its answer has arrived (R14, R15). -/
def popInFlight (s : State) : State := { s with dn := { s.dn with inFlight := s.dn.inFlight.tail } }

/-- R152, R160, R18: the answer to this request is dropped unexamined: it was in flight at a hardware reset, its buffer
is DISCARDING, or its load is abandoned. -/
def answerDiscarded (s : State) (f : InFlight) : Bool :=
  f.stale ||
    match f.owner with
    | .row b =>
      match bufferOf b s.engine with
      | .discarding _ => true
      | _ => false
    | .loader =>
      match s.cmd.load with
      | some l => l.abandoned
      | none => false
    | _ => false

/-- An answer that is examined: the oldest request in flight, with an answer that fits it (R3, R15), is given to `k`. -/
def withAnswer (a : Answer) (s : State) (k : InFlight → Option State) : Host.Outcome State Fault Refusal :=
  match s.dn.inFlight with
  | [] => .refused .answerNotNext
  | f :: _ =>
    if answerDiscarded s f then .refused .answerNotNext
    else if answerFits f.request.body a = false then .refused .malformedAnswer
    else
      match k f with
      | none => .refused .answerNotNext
      | some t => happens s t

/-! ### Surface fragments and forwarded requests (R9, R12, R63, R64) -/

/-- R63: a fragment takes its answer. -/
def answerFragment (a : Answer) (f : Fragment) : Fragment :=
  match a with
  | .ok data => { f with state := .ok, got := data }
  | .memoryError => { f with state := .failed }

/-- Every fragment has been answered. -/
def allAnswered (c : Context) : Bool := c.fragments.all fun f => f.state == .ok || f.state == .failed

/-- R12, R63: the result of a request whose fragments have all been answered. -/
def fragmentsResult (c : Context) : Result := if c.fragments.any fun f => f.state == .failed then .memErr else .okay

/-- R64: one pixel of the read data. -/
def assemblePixel (c : Context) (e : Option (Nat × Nat)) : Pixel :=
  match e with
  | none => 0
  | some (i, j) =>
    match c.fragments[i]? with
    | none => 0
    | some f => if f.state = .ok then f.got.getD j 0 else 0

/-- R12, R64: the response of a surface request whose fragments have all been answered. -/
def surfaceResponse (c : Context) : ReadyResponse :=
  { response := { tag := c.tag, result := fragmentsResult c, data := c.pixelMap.map (assemblePixel c) }
    origin := .surface }

/-- R63: the answer to fragment `i` of a request is recorded, and the last one makes the response ready. -/
def fragmentAnswered (key : Key) (i : Nat) (a : Answer) (s : State) : State :=
  match contextOf key s with
  | none => s
  | some c =>
    let c := setFragment c i (answerFragment a)
    let s := putContext c s
    if allAnswered c then makeReady key.1 (surfaceResponse c) s else s

/-- R9: the response of a forwarded request. -/
def forwardedResponse (r : Request) (a : Answer) : ReadyResponse :=
  { response := { tag := r.tag
                  result := if answerOk a then .okay else .memErr
                  data := match r.body with
                    | .read n => answerWords n a
                    | .write _ => [] }
    origin := .forwarded r }

/-! ### Tile rows (R135 to R139, R152) -/

/-- R138: an abandoned move whose reads have all been answered becomes a fill of its surface, in the same buffer. -/
def abandonMove (b : BufferId) (r : Reading) (s : State) : State :=
  let k : FillKind := match (targetRecord s).panes[r.move.targetPane]? with
    | some p => .surface p.surface r.move.targetPane
    | none => .dark
  onEngine (fun e => setBuffer b (fillBuffer s r.tile k) { e with map := setEntry e.map r.tile (.filling k b) }) s

/-- R136: a move whose 40 reads have been answered OK forms its rows and begins writing. -/
def beginWriting (b : BufferId) (r : Reading) (s : State) : State :=
  onEngine (fun e => setBuffer b
    (.writing { tile := r.tile, bank := otherBank r.bank, op := .move
                rows := moveRows (targetRecord s) (s.ctrl.old.getD blankRecord) r.move r.tile r.rows
                issued := 0, answered := 0, failure := false }) e) s

/-- R135, R138: the answer to a row read of a move. -/
def rowReadAnswered (b : BufferId) (r : Reading) (a : Answer) (s : State) : State :=
  match a with
  | .ok data =>
    let r := { r with answered := r.answered + 1, rows := r.rows ++ [data] }
    if r.abandon then
      if r.answered = r.issued then abandonMove b r s else onEngine (setBuffer b (.reading r)) s
    else if r.answered = 40 then beginWriting b r s
    else onEngine (setBuffer b (.reading r)) s
  | .memoryError =>
    let s := if r.abandon then s else countMemoryError s
    let r := { r with answered := r.answered + 1, abandon := true }
    if r.answered = r.issued then abandonMove b r s else onEngine (setBuffer b (.reading r)) s

/-- R137, R139: the counter of a tile operation that ends. -/
def endCounter (w : Writing) : CounterId :=
  if w.failure then .failed
  else
    match w.op with
    | .move => .moved
    | .fill => .filled

/-- R137: a tile operation ends: entry, buffer, held requests, next tile, report. -/
def endTile (b : BufferId) (w : Writing) (s : State) : State :=
  completionTest <| takeTiles <| releaseHeld <|
    onEngine (fun e => setBuffer b .empty
      { e with map := setEntry e.map w.tile (if w.failure then .failed else .done) }) <|
    countEvent (endCounter w) 1 s

/-- R137, R139: the answer to a row write. -/
def rowWriteAnswered (b : BufferId) (w : Writing) (a : Answer) (s : State) : State :=
  let s := if answerOk a || w.failure then s else countMemoryError s
  let w := { w with answered := w.answered + 1, failure := w.failure || !answerOk a }
  if w.answered = 40 then endTile b w s else onEngine (setBuffer b (.writing w)) s

/-- R152: a discarding buffer takes an answer; with the last one it becomes EMPTY and may take a tile. -/
def discardAnswered (b : BufferId) (n : Nat) (s : State) : State :=
  if n ≤ 1 then completionTest (takeTiles (onEngine (setBuffer b .empty) s))
  else onEngine (setBuffer b (.discarding (n - 1))) s

/-- R18, R152, R160: what an unexamined answer changes. -/
def dropAnswer (f : InFlight) (s : State) : State :=
  if f.stale then s
  else
    match f.owner with
    | .row b =>
      match bufferOf b s.engine with
      | .discarding n => discardAnswered b n s
      | _ => s
    | .loader => dropLoadAnswer s
    | _ => s

/-! ### Record writes (R162, R166, R169) -/

/-- R166: a notice or status write is answered; a memory error is counted and raised. -/
def recordAnswered (w : RecordWriter) (a : Answer) (s : State) : State :=
  let s := onNotice (fun n => match w with
    | .notice => { n with noticeWriter := writerAnswered n.noticeWriter }
    | .status => { n with statusWriter := writerAnswered n.statusWriter }
    | _ => n) s
  if answerOk a then s else countMemoryError s

/-- R162: a response write is answered: COMMAND_DONE, a memory error counted; a waiting response may then be written. -/
def responseAnswered (a : Answer) (s : State) : State :=
  let s := onNotice (fun n => { n with responseBusy := false }) s
  raise .commandDone (if answerOk a then s else countMemoryError s)

/-- R159: the REPORTs that a counts write carried are answered DONE, in the order they were taken (log 23). -/
def answerReports (rs : List Byte) (s : State) : State := rs.foldl (fun t seq => respond seq .done 0 t) s

/-- R169, R170: a counts write is answered. -/
def countsAnswered (f : CountsFlight) (a : Answer) (s : State) : State :=
  let s := onNotice (fun n => { n with countsBusy := none }) s
  if f.overtaken then s
  else answerReports f.reports (if answerOk a then raise .countsReady s else countMemoryError s)

end Sys2Proof.Machine
end

