-- ==== Sys2Proof/Machine/DownstreamFamily.lean ====
section
/-!
DEFINITION. Meanings of ARBITER_GRANT and of the nine answers (01 R13 to R16; 03 R63; 07 R135 to R139, R152; 08 R155,
R162; 09 R166, R169).
-/
namespace Sys2Proof.Machine

/-- ARBITER_GRANT (R13, R14). -/
def execArbiterGrant (pick : RecordWriter) (s : State) : Host.Outcome State Fault Refusal :=
  whileReleased s <|
    if s.dn.inFlight.length < dnLimit then
      match nextRequester s with
      | none => .refused .nothingToGrant
      | some q =>
        match requesterIssue pick q s with
        | none => .refused .nothingToGrant
        | some i => happens s (grant q i)
    else .refused .nothingToGrant

/-- FRAGMENT_ANSWER (R63). -/
def execFragmentAnswer (a : Answer) (s : State) : Host.Outcome State Fault Refusal :=
  whileReleased s <| withAnswer a s fun f =>
    match f.owner with
    | .fragment p tag i => some (fragmentAnswered (p, tag) i a (popInFlight s))
    | _ => none

/-- FORWARDED_ANSWER (R9). -/
def execForwardedAnswer (a : Answer) (s : State) : Host.Outcome State Fault Refusal :=
  whileReleased s <| withAnswer a s fun f =>
    match f.owner with
    | .forward p r => some (makeReady p (forwardedResponse r a) (popInFlight s))
    | _ => none

/-- ROW_READ_ANSWER (R135, R138). -/
def execRowReadAnswer (a : Answer) (s : State) : Host.Outcome State Fault Refusal :=
  whileReleased s <| withAnswer a s fun f =>
    match f.owner with
    | .row b =>
      match bufferOf b s.engine with
      | .reading r => some (rowReadAnswered b r a (popInFlight s))
      | _ => none
    | _ => none

/-- ROW_WRITE_ANSWER (R137, R139). -/
def execRowWriteAnswer (a : Answer) (s : State) : Host.Outcome State Fault Refusal :=
  whileReleased s <| withAnswer a s fun f =>
    match f.owner with
    | .row b =>
      match bufferOf b s.engine with
      | .writing w => some (rowWriteAnswered b w a (popInFlight s))
      | _ => none
    | _ => none

/-- DISCARDED_ANSWER (R18, R152, R160): the answer itself is not examined. -/
def execDiscardedAnswer (_a : Answer) (s : State) : Host.Outcome State Fault Refusal :=
  whileReleased s <|
    match s.dn.inFlight with
    | [] => .refused .answerNotNext
    | f :: _ => if answerDiscarded s f then happens s (dropAnswer f (popInFlight s)) else .refused .answerNotNext

/-- LOADER_READ_ANSWER (R155, R156). -/
def execLoaderReadAnswer (a : Answer) (s : State) : Host.Outcome State Fault Refusal :=
  whileReleased s <| withAnswer a s fun f =>
    match f.owner, s.cmd.load with
    | .loader, some l => some (loadAnswer l a (popInFlight s))
    | _, _ => none

/-- RECORD_WRITE_ANSWER (R166): of the notice and status records. -/
def execRecordWriteAnswer (a : Answer) (s : State) : Host.Outcome State Fault Refusal :=
  whileReleased s <| withAnswer a s fun f =>
    match f.owner with
    | .record .notice => some (recordAnswered .notice a (popInFlight s))
    | .record .status => some (recordAnswered .status a (popInFlight s))
    | _ => none

/-- RESPONSE_WRITE_ANSWER (R162). -/
def execResponseWriteAnswer (a : Answer) (s : State) : Host.Outcome State Fault Refusal :=
  whileReleased s <| withAnswer a s fun f =>
    match f.owner with
    | .record .response => some (responseAnswered a (popInFlight s))
    | _ => none

/-- COUNTS_WRITE_ANSWER (R169, R170). -/
def execCountsWriteAnswer (a : Answer) (s : State) : Host.Outcome State Fault Refusal :=
  whileReleased s <| withAnswer a s fun f =>
    match f.owner, s.notice.countsBusy with
    | .record .counts, some c => some (countsAnswered c a (popInFlight s))
    | _, _ => none

end Sys2Proof.Machine
end

