-- ==== Sys2Proof/Machine/FrameFamily.lean ====
section
/-!
DEFINITION. Meanings of FRAME_START and LOSS_TIMER_EXPIRY, with the frame timing monitor's operations (06 R113, R120 to
R122; 09 R169).
-/
namespace Sys2Proof.Machine

/-- A change of the frame timing monitor alone. -/
def onFrame (f : FrameMonitor → FrameMonitor) (s : State) : State := { s with frame := f s.frame }

/-- R120: the nominal frame period in µs, 8333 while the shadow table is empty. -/
def framePeriod (s : State) : Nat :=
  match s.cmd.shadow with
  | none => 8333
  | some t => t.framePeriod

/-- R122: the panel timing edge mode, LOSS_ONLY while the shadow table is empty. -/
def panelEdge (s : State) : EdgeMode :=
  match s.cmd.shadow with
  | none => .lossOnly
  | some t => t.panelEdge

/-- R169: the report interval in frames, 0 while the shadow table is empty. -/
def reportInterval (s : State) : Nat :=
  match s.cmd.shadow with
  | none => 0
  | some t => t.report

/-- R113: a flip awaited in FLIP_WAIT is taken. -/
def takeAwaitedFlip (s : State) : State := if s.ctrl.state = .flipWait then flip s else s

/-- R169: a frame boundary counts toward the report interval: with interval 0 the count is 0 (log 15), otherwise it
rises, and at the interval or more a transfer is made. -/
def countBoundary (s : State) : State :=
  let n := reportInterval s
  if n = 0 then onNotice (fun u => { u with frameCount := 0 }) s
  else if n ≤ s.notice.frameCount + 1 then onNotice (transferCounts []) s
  else onNotice (fun u => { u with frameCount := u.frameCount + 1 }) s

/-- R121, R122: in LOST, a FRAME_START less than two nominal periods after the last one returns panel timing to PRESENT;
PANEL_TIMING is raised in edge mode BOTH. -/
def checkReturn (s : State) : State :=
  match s.frame.panel, s.frame.lastStart with
  | .lost, some last =>
    if s.now - last < 2 * framePeriod s then
      let t := onFrame (fun f => { f with panel := .present }) s
      if panelEdge s = .both then raise .panelTiming t else t
    else s
  | _, _ => s

/-- R121: a FRAME_START is recorded and restarts the loss timer, three nominal periods long (R120). -/
def recordStart (s : State) : State :=
  onFrame (fun f => { f with lastStart := some s.now, lossTimer := some (s.now + 3 * framePeriod s) }) s

/-- R121: a FRAME_START: the frame boundary goes to the controller and then to the notice unit (log 14), panel timing may
return, and the time is recorded. -/
def frameStarts (s : State) : State := recordStart (checkReturn (countBoundary (takeAwaitedFlip s)))

/-- R120, R122, R113: the loss timer reaches its due time: in PRESENT the panel is judged LOST, PANEL_TIMING raised and
an awaited flip taken; in LOST it has no effect. -/
def lossTimerExpires (s : State) : State :=
  let s := onFrame (fun f => { f with lossTimer := none }) s
  match s.frame.panel with
  | .lost => s
  | .present => takeAwaitedFlip (raise .panelTiming (onFrame (fun f => { f with panel := .lost }) s))

/-- FRAME_START (R121), `elapsed` µs after the time the clock stands at. -/
def execFrameStart (elapsed : Nat) (s : State) : Host.Outcome State Fault Refusal :=
  whileReleased s <| atTime (s.now + elapsed) s frameStarts

/-- LOSS_TIMER_EXPIRY (R120), at the timer's due time. -/
def execLossTimerExpiry (s : State) : Host.Outcome State Fault Refusal :=
  whileReleased s <|
    match s.frame.lossTimer with
    | some due => atTime due s lossTimerExpires
    | none => .refused .timerNotRunning

end Sys2Proof.Machine
end

