-- ==== Sys2Proof/Machine/PostureFamily.lean ====
section
/-!
DEFINITION. Meanings of the posture monitor's commands: POLL_ROUND, SENSOR_REPLY, REPLY_TIMEOUT, SETTLE_TIMER_EXPIRY,
FALLBACK_TIMER_EXPIRY (05 R79 to R92).
-/
namespace Sys2Proof.Machine

/-- R79: a round falls due: not made while the round before it has not ended, otherwise begun with the poll of H1. -/
def roundFallsDue (s : State) : State :=
  match s.monitor.poll with
  | some _ => onMonitor (fun m => { m with roundDue := m.roundDue + m.period * 1000 }) s
  | none =>
    let period := pollPeriod s
    beginPoll .h1 (onMonitor (fun m => { m with period := period, roundDue := s.now + period * 1000 }) s)

/-- POLL_ROUND (R79), at the time the round falls due. -/
def execPollRound (s : State) : Host.Outcome State Fault Refusal :=
  whileReleased s <| atTime s.monitor.roundDue s roundFallsDue

/-- SENSOR_REPLY (R81, R179): the poll in progress ends at the end of a reply frame that began in time, or at the
time-out where it began later. -/
def execSensorReply (start : Nat) (f : ReplyFrame) (s : State) : Host.Outcome State Fault Refusal :=
  whileReleased s <|
    match s.monitor.poll with
    | none => .refused .noPoll
    | some p => exactlyAt (pollEndTime p start) s fun t => continueRound p.hinge (judgePoll p.hinge start f t)

/-- REPLY_TIMEOUT (R81): no start bit within 1 ms of the end of the poll frame, at that moment. -/
def execReplyTimeout (s : State) : Host.Outcome State Fault Refusal :=
  whileReleased s <|
    match s.monitor.poll with
    | none => .refused .noPoll
    | some p => exactlyAt (p.frameEnd + replyLimit) s fun t => continueRound p.hinge (pollMiss p.hinge t)

/-- SETTLE_TIMER_EXPIRY (R89), at the timer's due time. -/
def execSettleTimerExpiry (s : State) : Host.Outcome State Fault Refusal :=
  whileReleased s <|
    match s.monitor.settle with
    | .running n due => atTime due s (settleExpires n)
    | _ => .refused .timerNotRunning

/-- FALLBACK_TIMER_EXPIRY (R92), at the timer's due time. -/
def execFallbackTimerExpiry (s : State) : Host.Outcome State Fault Refusal :=
  whileReleased s <|
    match s.monitor.fallback with
    | .running due => atTime due s fallbackExpires
    | _ => .refused .timerNotRunning

end Sys2Proof.Machine
end

