-- ==== Sys2Proof/Machine/ResetFamily.lean ====
section
/-!
DEFINITION. Meanings of RESET_N_ASSERT and RESET_N_RELEASE (01 R18, 05 R97, 10 R171).
-/
namespace Sys2Proof.Machine

/-- The lines of the two links while RESET_N is asserted: SENS_CLK and SENS_DAT released (R97), SPI_CS_N high, SPI_CLK
and SPI_MOSI low (R171). -/
def pinsInReset : Pins :=
  { resetAsserted := true, sensClk := .released, sensDat := .released
    spiCsN := .driven true, spiClk := .driven false, spiMosi := .driven false }

/-- The requests in flight when RESET_N is asserted, whose answers the DN port will discard (R18). -/
def staleInFlight (fs : List InFlight) : List InFlight := fs.map fun f => { f with stale := true }

/-- RESET_N_ASSERT: a poll in progress is abandoned unjudged (R97), an SPI transaction is abandoned and its bytes
discarded (R171), the lines rest, and what is in flight on DN will be discarded (R18). The blocks take their reset
values at the release (R18, R101, R124, R150; log 8). -/
def execResetNAssert (s : State) : Host.Outcome State Fault Refusal :=
  whileReleased s <| .next
    { s with
      pins := pinsInReset
      monitor := { s.monitor with poll := none }
      boot := match s.boot.spi with
        | none => s.boot
        | some _ => { s.boot with spi := none, bytes := [] }
      dn := { s.dn with inFlight := staleInFlight s.dn.inFlight } }

/-- RESET_N_RELEASE: every block takes its reset values, the first poll round, the loss timer and the head read begin,
and the notice and status writers are DUE (R18, R66, R97, R101, R124, R150, R162, R170, R171). What was in flight on DN
stays in flight, to be discarded (R18). -/
def execResetNRelease (s : State) : Host.Outcome State Fault Refusal :=
  if s.pins.resetAsserted then .next
    { State.reset with
      dn := { inFlight := staleInFlight s.dn.inFlight, lastGranted := .notice }
      freeUses := s.freeUses
      pending := s.pending }
  else .refused .resetNotAsserted

end Sys2Proof.Machine
end

