-- ==== Sys2Proof/Machine/UpstreamFamily.lean ====
section
/-!
DEFINITION. Meanings of the upstream commands: REQUEST_PRESENT and the rows that narrow it, INTAKE_WAIT_END,
RESPONSE_SEND and NOTICE_RECORD_READ (01 R2, R6 to R12; log 6, log 7).
-/
namespace Sys2Proof.Machine

/-- REQUEST_PRESENT (R6). -/
def execRequestPresent (p : Port) (r : Request) (s : State) : Host.Outcome State Fault Refusal := present p r s

/-- SYSTEM_WINDOW_WRITE (R10): a presented write of system window words with no behaviour of their own. -/
def execSystemWindowWrite (p : Port) (r : Request) (s : State) : Host.Outcome State Fault Refusal :=
  if (Instr.systemWindowWrite p r).WellFormed then present p r s else .refused .illFormed

/-- TABLE_AREA_WRITE (R156): a presented write with an unmasked pixel in the table area. -/
def execTableAreaWrite (p : Port) (r : Request) (s : State) : Host.Outcome State Fault Refusal :=
  if (Instr.tableAreaWrite p r).WellFormed then present p r s else .refused .illFormed

/-- NOTICE_RECORD_WRITE (R165): a presented write with unmasked pixels in the notice record. -/
def execNoticeRecordWrite (p : Port) (r : Request) (s : State) : Host.Outcome State Fault Refusal :=
  if (Instr.noticeRecordWrite p r).WellFormed then present p r s else .refused .illFormed

/-- RESPONSE_SEND (R2). -/
def execResponseSend (p : Port) (tag : Tag) (s : State) : Host.Outcome State Fault Refusal :=
  whileReleased s <|
    match nextResponse p tag s with
    | none => .refused .responseNotNext
    | some rr => happens s (sendResponse p rr s)

/-- The response answers a host read of the notice record (R165). -/
def answersNoticeRead (rr : ReadyResponse) : Bool :=
  match rr.origin with
  | .forwarded r => (noticeReadPosition r).isSome
  | _ => false

/-- NOTICE_RECORD_READ (R165): the response of a host read of the notice record is sent. -/
def execNoticeRecordRead (p : Port) (tag : Tag) (s : State) : Host.Outcome State Fault Refusal :=
  whileReleased s <|
    match nextResponse p tag s with
    | none => .refused .responseNotNext
    | some rr => if answersNoticeRead rr then happens s (sendResponse p rr s) else .refused .responseNotNext

/-- INTAKE_WAIT_END (R8). -/
def execIntakeWaitEnd (p : Port) (s : State) : Host.Outcome State Fault Refusal :=
  whileReleased s <|
    match endWait p s with
    | none => .refused .stillWaiting
    | some t => happens s t

end Sys2Proof.Machine
end

