-- ==== Sys2Proof/Machine/Dispatch.lean ====
section
/-!
DEFINITION. exec: one arm per command, each one call of its meaning.
-/
namespace Sys2Proof.Machine

def exec (i : Instr) (s : State) : Host.Outcome State Fault Refusal :=
  match i with
  | .resetNAssert => Sys2Proof.Machine.execResetNAssert s
  | .resetNRelease => Sys2Proof.Machine.execResetNRelease s
  | .requestPresent p r => Sys2Proof.Machine.execRequestPresent p r s
  | .systemWindowWrite p r => Sys2Proof.Machine.execSystemWindowWrite p r s
  | .tableAreaWrite p r => Sys2Proof.Machine.execTableAreaWrite p r s
  | .noticeRecordWrite p r => Sys2Proof.Machine.execNoticeRecordWrite p r s
  | .noticeRecordRead p tag => Sys2Proof.Machine.execNoticeRecordRead p tag s
  | .intakeWaitEnd p => Sys2Proof.Machine.execIntakeWaitEnd p s
  | .arbiterGrant pick => Sys2Proof.Machine.execArbiterGrant pick s
  | .fragmentAnswer a => Sys2Proof.Machine.execFragmentAnswer a s
  | .forwardedAnswer a => Sys2Proof.Machine.execForwardedAnswer a s
  | .responseSend p tag => Sys2Proof.Machine.execResponseSend p tag s
  | .rowReadAnswer a => Sys2Proof.Machine.execRowReadAnswer a s
  | .rowWriteAnswer a => Sys2Proof.Machine.execRowWriteAnswer a s
  | .discardedAnswer a => Sys2Proof.Machine.execDiscardedAnswer a s
  | .loaderReadAnswer a => Sys2Proof.Machine.execLoaderReadAnswer a s
  | .recordWriteAnswer a => Sys2Proof.Machine.execRecordWriteAnswer a s
  | .responseWriteAnswer a => Sys2Proof.Machine.execResponseWriteAnswer a s
  | .countsWriteAnswer a => Sys2Proof.Machine.execCountsWriteAnswer a s
  | .pollRound => Sys2Proof.Machine.execPollRound s
  | .sensorReply start f => Sys2Proof.Machine.execSensorReply start f s
  | .replyTimeout => Sys2Proof.Machine.execReplyTimeout s
  | .settleTimerExpiry => Sys2Proof.Machine.execSettleTimerExpiry s
  | .fallbackTimerExpiry => Sys2Proof.Machine.execFallbackTimerExpiry s
  | .frameStart elapsed => Sys2Proof.Machine.execFrameStart elapsed s
  | .lossTimerExpiry => Sys2Proof.Machine.execLossTimerExpiry s
  | .publish p tag seq arg => Sys2Proof.Machine.execPublish p tag seq arg s
  | .force p tag seq arg => Sys2Proof.Machine.execForce p tag seq arg s
  | .release p tag seq arg => Sys2Proof.Machine.execRelease p tag seq arg s
  | .report p tag seq arg => Sys2Proof.Machine.execReport p tag seq arg s
  | .restart p tag seq arg => Sys2Proof.Machine.execRestart p tag seq arg s
  | .badCommand p tag seq code arg => Sys2Proof.Machine.execBadCommand p tag seq code arg s
  | .bootHeadReadEnd bytes => Sys2Proof.Machine.execBootHeadReadEnd bytes s
  | .bootBodyReadEnd bytes => Sys2Proof.Machine.execBootBodyReadEnd bytes s
  | .bootCheckEnd first => Sys2Proof.Machine.execBootCheckEnd first s

end Sys2Proof.Machine
end

