-- ==== Sys2Proof/Machine/Step.lean ====
section
/-!
DEFINITION. One step of the part: the command at the front of the queue is run, with the queue's rest left waiting.
-/
namespace Sys2Proof.Machine

/-- The command at the front of the queue runs on the part with the queue's rest; on an empty queue the part idles
(log 4). -/
def step (s : State) : Host.Outcome State Fault Refusal :=
  match s.pending with
  | [] => .next s
  | c :: rest => exec c { s with pending := rest }

/-- The part with the command that a table word spells at the front of its queue; unchanged where it spells none, which
is always, since the table gives no row any bits (log 5). -/
def State.withFetchWord (s : State) (nbits w : Nat) : State :=
  match Sys2Proof.decodeTableWord nbits w with
  | none => s
  | some c => { s with pending := c :: s.pending }

end Sys2Proof.Machine
end

