-- ==== Sys2Proof/Safety.lean ====
section
/-!
DEFINITION. What counts as a safe state: the bounds and relations that the rules promise of every state the part reaches,
in the terms the statements use, and the words the statements share.
-/
namespace Sys2Proof.Machine

/-! ## Words the statements share -/

/-- RESET_N is not asserted, so the part takes commands (R18, log 8). -/
def Released (s : State) : Prop := s.pins.resetAsserted = false

/-- The port's intake place is EMPTY and no request with this tag is outstanding, so that a request with it passes R6
step 1 at once. -/
def TakesTag (p : Port) (tag : Tag) (s : State) : Prop :=
  (portOf p s).place = .empty ∧ tagOutstanding p tag s = false

/-- R6 step 4, R9, R11: the part with request `r` accepted at port `p` and at the end of the port's path list. -/
def forwarded (p : Port) (r : Request) (s : State) : State :=
  setPort p { portOf p s with tags := (portOf p s).tags ++ [r.tag], path := (portOf p s).path ++ [.forward r] } s

/-- R50: record copy `rc` and bank `b` govern a surface request received now: the active record and the front bank in
STEADY, the target record and the back bank in a transition. -/
def Governs (rc : RecordCopy) (b : Bank) (s : State) : Prop :=
  (s.ctrl.state = .steady ∧ s.ctrl.active = some rc ∧ b = s.ctrl.frontBank) ∨
    (inTransition s.ctrl.state = true ∧ s.ctrl.target = some rc ∧ b = otherBank s.ctrl.frontBank)

/-- R6 step 4, R46, R49: the part with a surface request received at port `p`: its tag outstanding, its context `c` held,
its dropped pixels counted. -/
def received (p : Port) (c : Context) (dropped : Nat) (s : State) : State :=
  countEvent .clipped dropped
    { setPort p { portOf p s with tags := (portOf p s).tags ++ [c.tag] } s with contexts := s.contexts ++ [c] }

/-- R141: a request with context `c` has to be held: the controller is DRAINING or RELOCATING, the request is of the
current generation, and a tile it touches is not finished. -/
def MustBeHeld (c : Context) (s : State) : Prop :=
  (s.ctrl.state = .draining ∨ s.ctrl.state = .relocating) ∧ c.generation = s.ctrl.generation ∧
    ∃ t ∈ c.tiles, isFinished (entryAt s.engine.map t.tile) = false

/-- R145: the tiles of a request that join the promotion queue: its pending tiles not queued yet, in the order of its
fragments (within one fragment: log 13), as many as the queue of 16 has room for. -/
def joining (ts : List BankTile) (s : State) : List Tile :=
  (dropRepeats ((ts.map (·.tile)).filter fun t =>
    isPending (entryAt s.engine.map t) && !s.engine.promotion.contains t)).take (16 - s.engine.promotion.length)

/-- R145: the part with these tiles at the end of the promotion queue, each counted as a promotion. -/
def promoted (added : List Tile) (s : State) : State :=
  { s with
    engine := { s.engine with promotion := s.engine.promotion ++ added }
    notice := { s.notice with counters := { s.notice.counters with
      promotions := if added = [] then s.notice.counters.promotions
        else addCount added.length s.notice.counters.promotions } } }

/-- R142, R145: the part with request `key` of context `c` at the end of the hold queue and counted as held, and its tiles
promoted, before any tile is taken. -/
def enteredHold (key : Key) (c : Context) (s : State) : State :=
  promoted (joining c.tiles s) { s with
    engine := { s.engine with hold := s.engine.hold ++ [key] }
    notice := { s.notice with counters := { s.notice.counters with held := addCount 1 s.notice.counters.held } } }

/-- No held request of port `p` touches one of the tiles (R17). -/
def SharesNoHeldTile (p : Port) (ts : List BankTile) (s : State) : Prop :=
  ∀ tag, (p, tag) ∈ s.engine.hold → ∀ c, contextOf (p, tag) s = some c → ∀ t ∈ c.tiles, t ∉ ts

/-- The oldest request in flight is `f`, with `rest` behind it, and its answer `a` is examined and has the words the
request asked for (R3, R15, R152). -/
def AnswerIsNext (a : Answer) (f : InFlight) (rest : List InFlight) (s : State) : Prop :=
  s.dn.inFlight = f :: rest ∧ answerDiscarded s f = false ∧ answerFits f.request.body a = true

/-- What of the notice unit the end of every event may rewrite: the status writer, NOTIFY and the order of the ready
writes (R164, R166, R167). -/
def NoticeKept (n m : NoticeUnit) : Prop :=
  m = { n with statusWriter := m.statusWriter, notify := m.notify, readyQueue := m.readyQueue }

/-- The request standing in an intake place (R6). -/
def placeRequest : Place → Option Request
  | .empty => none
  | .waitTag r _ | .waitTable r | .waitHold r | .waitOrder r => some r

/-- R2, R45, R107: the part right after port `p` has sent its ready response `rr` with tag `tag`: the response leaves the
port, its tag is free, its context discarded, and a write in the old-write set leaves that. -/
def afterSending (p : Port) (tag : Tag) (rr : ReadyResponse) (s : State) : State :=
  { setPort p { portOf p s with
      ready := withoutSent tag (portOf p s).ready, tags := (portOf p s).tags.erase tag, sent := some rr.response } s with
    contexts := s.contexts.filter fun c => !(c.port == p && c.tag == tag)
    ctrl := { s.ctrl with oldWrites := s.ctrl.oldWrites.filter fun k => k ≠ (p, tag) } }

/-- R2: an ABORTED response, with count zero pixels for a READ. -/
def abortedResponse (tag : Tag) (kind : Kind) (count : Nat) : Response :=
  { tag := tag, result := .aborted, data := if kind = .read then List.replicate count 0 else [] }

/-- R19: the part with request `q`, which waited in WAIT_TAG at port `p` with RESTART's mark, answered ABORTED: its place
is EMPTY, and it holds the tag in its turn (log 10). -/
def markedAborted (p : Port) (q : Request) (s : State) : State :=
  setPort p { portOf p s with
    place := .empty, tags := (portOf p s).tags ++ [q.tag]
    ready := (portOf p s).ready ++ [[{
      response := abortedResponse q.tag (bodyKind q.body) (bodyCount q.body), origin := .aborted }]] } s

/-- The requests that a command brings to the tests of R6: the one it presents, the one whose wait it ends, or, at the end
of the boot check, those that wait. -/
def requestsBrought (c : Instr) (s : State) : List Request :=
  match c with
  | .requestPresent _ r | .systemWindowWrite _ r | .tableAreaWrite _ r | .noticeRecordWrite _ r => [r]
  | .publish _ tag seq arg => [commandRequest tag seq 0x01 arg]
  | .force _ tag seq arg => [commandRequest tag seq 0x02 arg]
  | .release _ tag seq arg => [commandRequest tag seq 0x03 arg]
  | .report _ tag seq arg => [commandRequest tag seq 0x04 arg]
  | .restart _ tag seq arg => [commandRequest tag seq 0x0F arg]
  | .badCommand _ tag seq code arg => [commandRequest tag seq code arg]
  | .intakeWaitEnd p => (placeRequest (portOf p s).place).toList
  | .bootCheckEnd _ => (placeRequest s.up0.place).toList ++ (placeRequest s.up1.place).toList
  | .resetNAssert | .resetNRelease | .noticeRecordRead _ _ | .arbiterGrant _ | .fragmentAnswer _ | .forwardedAnswer _
  | .responseSend _ _ | .rowReadAnswer _ | .rowWriteAnswer _ | .discardedAnswer _ | .loaderReadAnswer _
  | .recordWriteAnswer _ | .responseWriteAnswer _ | .countsWriteAnswer _ | .pollRound | .sensorReply _ _ | .replyTimeout
  | .settleTimerExpiry | .fallbackTimerExpiry | .frameStart _ | .lossTimerExpiry | .bootHeadReadEnd _
  | .bootBodyReadEnd _ => []

/-- R153, R154: a request writes a command word with the code of RESTART. -/
def asksRestart (r : Request) : Prop :=
  ∃ w, wordWrittenAt r commandWordAddress = some w ∧ commandCode w = 0x0F

/-- An entry as a take into buffer `b` leaves it (R131). -/
def takenBy (b : BufferId) : TileState → TileState
  | .pendingMove m => .moving m b
  | .pendingFill k => .filling k b
  | e => e

/-- A physical tile of the panel (00_scope 1.7). -/
def OnPanel (t : Tile) : Prop := t.col < 81 ∧ t.row < 60

/-! ## NOTIFY and the counters (Chapter 9) -/

/-- R164: NOTIFY is asserted exactly while a pending kind is enabled in the shadow table. -/
def NotifyRight (s : State) : Prop :=
  s.notice.notify = true ↔
    ∃ t k, s.cmd.shadow = some t ∧ kindPending s.notice.set k = true ∧ kindPending t.enables k = true

/-- R168: a counter lies within 0 to 65535 and its flag is set exactly when it has reached 65535. -/
def CounterRight (c : Counter) : Prop := c.value ≤ 65535 ∧ (c.saturated = true ↔ c.value = 65535)

/-- R168: the twelve counters. -/
def CountersRight (s : State) : Prop := ∀ i, CounterRight (counterOf s.notice.counters i)

/-! ## The order of the ready writes (Chapters 8 and 9) -/

/-- R162, R166, R169: the order of the ready writes holds each record writer exactly once while its write is ready, and not
otherwise, in groups of which none is empty. -/
def ReadyRight (s : State) : Prop :=
  (∀ g ∈ s.notice.readyQueue, g ≠ []) ∧ s.notice.readyQueue.flatten.Nodup ∧
    ∀ w, w ∈ s.notice.readyQueue.flatten ↔ writerReady s.notice w = true

/-! ## Hinges (Chapter 5) -/

/-- R82, R84: the bounds of a hinge's runs, history and filtered angle; a PRESENT hinge has a full history, and before
PRESENT the valid run's angles stand in the history. -/
def HingeRight (g : Hinge) : Prop :=
  g.filtered ≤ 720 ∧ g.history.length ≤ 4 ∧ (∀ a ∈ g.history, a ≤ 720) ∧ g.missRun ≤ 3 ∧
    (g.state = .present → g.validRun ≤ 4 ∧ g.history.length = 4) ∧
    (g.state ≠ .present → g.validRun ≤ 3 ∧ g.validRun ≤ g.history.length)

/-- Both hinges. -/
def HingesRight (s : State) : Prop := HingeRight s.monitor.h1 ∧ HingeRight s.monitor.h2

/-! ## Queues (Chapters 1 and 7) -/

/-- R14, R142, R145: the bounds of DN, the hold queue and the promotion queue, which holds no tile twice. -/
def QueuesRight (s : State) : Prop :=
  s.dn.inFlight.length ≤ 48 ∧ s.engine.hold.length ≤ 16 ∧ s.engine.promotion.length ≤ 16 ∧ s.engine.promotion.Nodup

/-- Log 3: no due time of what runs lies before the clock, so that no timer and no open poll is left behind (R79, R81, R88,
R91, R120). -/
def ClockRight (s : State) : Prop := ∀ due ∈ runningDues s, s.now ≤ due

/-! ## Panes (Chapter 2) -/

/-- R38 check 5, R43: the pane's physical rectangle lies within the panel, and the pane is not empty. -/
def PaneInside (p : Pane) : Prop :=
  1 ≤ p.w ∧ 1 ≤ p.h ∧ p.x0 + paneWidth p ≤ 81 ∧ p.y0 + paneHeight p ≤ 60

/-- R43: the panes of a layout lie within the panel and no two of them share a physical tile. -/
def PanesRight (ps : List Pane) : Prop := (∀ p ∈ ps, PaneInside p) ∧ ps.Pairwise fun p q => panesOverlap q p = false

/-- R43: every layout of a table. -/
def TableRight (t : Table) : Prop := ∀ r ∈ t.records, PanesRight r.panes

/-- R43: the shadow table and the record copies. -/
def PlacesRight (s : State) : Prop :=
  (∀ t, s.cmd.shadow = some t → TableRight t) ∧ (∀ c, s.ctrl.active = some c → PanesRight c.panes)
    ∧ (∀ c, s.ctrl.target = some c → PanesRight c.panes) ∧ (∀ c, s.ctrl.old = some c → PanesRight c.panes)

/-! ## The transition controller and its engine (Chapters 6 and 7) -/

/-- R101, R43: which record copies are present in each controller state. -/
def RecordsRight (s : State) : Prop :=
  (s.ctrl.target.isSome = true ↔ inTransition s.ctrl.state = true) ∧
    (s.ctrl.state = .steady → s.ctrl.active.isSome = true ∧ s.ctrl.old = none) ∧
    (s.ctrl.state = .loading → s.ctrl.active = none ∧ s.ctrl.old = none)

/-- R40, R101, R171: the shadow table is empty exactly in LOADING, which lasts exactly until the boot loader is
FINISHED. -/
def BootRight (s : State) : Prop :=
  (s.cmd.shadow = none ↔ s.ctrl.state = .loading) ∧ (s.boot.state = .finished ↔ s.ctrl.state ≠ .loading)

/-- R101, R104: the load hold is ON exactly while a load runs that RESTART has not abandoned, and then the controller is
STEADY. -/
def LoadRight (s : State) : Prop :=
  (s.ctrl.loadHold = true ↔ ∃ l, s.cmd.load = some l ∧ l.abandoned = false) ∧
    (s.ctrl.loadHold = true → s.ctrl.state = .steady)

/-- R101, R109: the pending slot is set only in a transition, where it never holds the target's number, or while the load
hold is ON, where it never holds the active number. -/
def SlotRight (s : State) : Prop :=
  ∀ n, s.ctrl.slot = some n →
    (inTransition s.ctrl.state = true ∧ targetNumber s ≠ some n) ∨ (s.ctrl.loadHold = true ∧ activeNumber s ≠ some n)

/-- R1, R6, R8: a request in an intake place is one that can be presented; one in WAIT_TABLE is a surface request whose tag
is not outstanding. -/
def WaitsRight (s : State) : Prop :=
  (∀ p r, placeRequest (portOf p s).place = some r → presentable r = true) ∧
    ∀ p r, (portOf p s).place = .waitTable r →
      tagOutstanding p r.tag s = false ∧ ∃ k, admittedWindow r = some (.surface k)

/-- R6, R45, R107, R108: there is at most one context for each tag of each port, and its tag is outstanding; the intake
places are right; an old write is an outstanding surface write, and there is one exactly while the controller
drains. -/
def OutstandingRight (s : State) : Prop :=
  (s.contexts.map fun c => (c.port, c.tag)).Nodup ∧
    (∀ c ∈ s.contexts, tagOutstanding c.port c.tag s = true) ∧
    WaitsRight s ∧
    (∀ k ∈ s.ctrl.oldWrites, k ∈ outstandingWrites s) ∧ (s.ctrl.oldWrites ≠ [] ↔ s.ctrl.state = .draining)

/-- R112: outside DRAINING and RELOCATING every entry of the map is finished, both buffers are EMPTY and the hold queue
is empty; the map always has its 4860 entries (R125). -/
def MapRight (s : State) : Prop :=
  s.engine.map.length = 4860 ∧
    (s.ctrl.state ≠ .draining → s.ctrl.state ≠ .relocating →
      s.engine.map.all isFinished = true ∧ s.engine.tb0 = .empty ∧ s.engine.tb1 = .empty ∧ s.engine.hold = [])

/-- R125, R131, R132, R146: the engine's map, queue and buffers agree. The tiles that requests touch, that are queued and
that buffers work on are tiles of the panel; every queued tile is pending; an entry MOVING names a buffer that reads or
writes that move, an entry FILLING one that writes a fill of that tile; and the tile of a busy buffer has such an
entry. -/
structure TilesRight (s : State) : Prop where
  touched : ∀ c ∈ s.contexts, ∀ t ∈ c.tiles, OnPanel t.tile
  queued : ∀ t ∈ s.engine.promotion, OnPanel t ∧ isPending (entryAt s.engine.map t) = true
  moving : ∀ t m b, OnPanel t → entryAt s.engine.map t = .moving m b →
    (∃ r, bufferOf b s.engine = .reading r ∧ r.tile = t ∧ r.move = m) ∨
      ∃ w, bufferOf b s.engine = .writing w ∧ w.tile = t ∧ w.op = .move
  filling : ∀ t k b, OnPanel t → entryAt s.engine.map t = .filling k b →
    ∃ w, bufferOf b s.engine = .writing w ∧ w.tile = t ∧ w.op = .fill
  reading : ∀ b r, bufferOf b s.engine = .reading r → OnPanel r.tile ∧ entryAt s.engine.map r.tile = .moving r.move b
  writing : ∀ b w, bufferOf b s.engine = .writing w → OnPanel w.tile ∧
    (w.op = .move → ∃ m, entryAt s.engine.map w.tile = .moving m b) ∧
    (w.op = .fill → ∃ k, entryAt s.engine.map w.tile = .filling k b)

/-- R101, R102, R106, R107, R126, R129, R163: `s` as a commit of `target` with old record `old` leaves it before the engine
takes tiles: the controller's values, `map` in place of the transition map, the plan cursor at 0, and TRANSITION_BEGUN
raised. -/
def committing (drain : DrainKind) (target : RecordCopy) (old : Option RecordCopy) (map : List TileState) (s : State) :
    State :=
  { s with
    ctrl := { s.ctrl with
      target := some target, old := old, generation := s.ctrl.generation + 1, oldWrites := outstandingWrites s
      drainKind := drain, state := if outstandingWrites s = [] then .relocating else .draining }
    engine := { s.engine with map := map, cursor := 0 }
    notice := { s.notice with
      set := s.notice.set ||| kindBit .transitionBegun
      noticeWriter := if kindPending s.notice.set .transitionBegun then s.notice.noticeWriter
        else writerChanged s.notice.noticeWriter } }

/-- R101, R102, R106, R126, R131: `t` is `s` after a commit of `target` with old record `old`: the map has the 4860 entries
of the plan, the cursor is 0, the EMPTY buffers take tiles, and nothing else changes but as `committing` says. The
fields after the first say what follows for the controller's values, the entries and the notice unit. -/
structure Committed (drain : DrainKind) (target : RecordCopy) (old : Option RecordCopy) (s t : State) : Prop where
  begun : ∃ map : List TileState, map.length = 4860 ∧
    (∀ tile, OnPanel tile → entryAt map tile = planEntry target old tile) ∧
    t = takeTiles (committing drain target old map s)
  ctrl : t.ctrl = { s.ctrl with
    target := some target, old := old, generation := s.ctrl.generation + 1, oldWrites := outstandingWrites s
    drainKind := drain, state := if outstandingWrites s = [] then .relocating else .draining }
  map : ∀ tile, OnPanel tile → entryAt t.engine.map tile = planEntry target old tile
    ∨ ∃ b, entryAt t.engine.map tile = takenBy b (planEntry target old tile)
  engine : t.engine.hold = s.engine.hold ∧ t.engine.lastIssuer = s.engine.lastIssuer
  notice : t.notice.set = s.notice.set ||| kindBit .transitionBegun
    ∧ t.notice.counters = { s.notice.counters with promotions := t.notice.counters.promotions }
  others : t = { s with ctrl := t.ctrl, engine := t.engine, notice := t.notice }

/-- R110: `t` is `s` after the resolution of its pending slot: an empty slot changes nothing, a number that the shadow table
does not hold is dropped, any other is committed. -/
structure SlotResolved (s t : State) : Prop where
  empty : s.ctrl.slot = none → t = s
  dropped : ∀ n, s.ctrl.slot = some n → (∀ tb, s.cmd.shadow = some tb → tableRecord tb n = none) →
    t = { s with ctrl := { s.ctrl with slot := none } }
  committed : ∀ n tb r, s.ctrl.slot = some n → s.cmd.shadow = some tb → tableRecord tb n = some r →
    Committed .commit (copyRecord tb r) s.ctrl.active { s with ctrl := { s.ctrl with slot := none } } t

/-- R114: the part right after the flip, its pending slot not yet resolved: the banks exchanged, the target record
active, PANEL_ENABLE asserted, the transition counted and LAYOUT_ACTIVE raised. -/
def flipped (s : State) : State :=
  { s with
    ctrl := { s.ctrl with
      frontBank := otherBank s.ctrl.frontBank, active := s.ctrl.target, target := none, old := none
      panelEnable := true, state := .steady }
    notice := raiseKind .layoutActive
      { s.notice with counters := { s.notice.counters with transitions := addCount 1 s.notice.counters.transitions } } }

/-- R109: the part after a request for layout `n` has acted on the pending slot, `current` being the number that empties
it: replacing another number is counted. -/
def slotTakes (current : Option Nat) (n : Nat) (s : State) : State :=
  { s with
    ctrl := { s.ctrl with slot := if current = some n then none else some n }
    notice := if current ≠ some n ∧ s.ctrl.slot ≠ none ∧ s.ctrl.slot ≠ some n
      then { s.notice with counters := { s.notice.counters with
        replacements := addCount 1 s.notice.counters.replacements } }
      else s.notice }

/-- What the rules promise of the controller, the command block and the engine together. -/
structure TransitionRight (s : State) : Prop where
  records : RecordsRight s
  boot : BootRight s
  load : LoadRight s
  slot : SlotRight s
  map : MapRight s

end Sys2Proof.Machine
end

