-- ==== Sys2Proof/Certificates/Slice0/Obligations.lean ====
section
/-!
DEFINITION. The statements for the provers.
-/
open Sys2Proof Sys2Proof.Machine

/-! ## The queue of commands -/

/-- A step runs the command at the front of the queue on the part with the queue's rest; with an empty queue the part
idles (log 4: the model's own choice). -/
def Obligations.StepRunsTheFrontCommand : Prop :=
  (∀ (c : Instr) (rest : List Instr) (s : State),
      step { s with pending := c :: rest } = exec c { s with pending := rest }) ∧
    ∀ s : State, s.pending = [] → step s = .next s

/-! ## Hardware reset -/

/-- RESET_N_ASSERT (R18, R97, R171): the poll and the SPI transaction in progress are abandoned, the sensor lines are
released, the SPI lines rest, what is in flight on DN is marked for discarding, and nothing else changes until the
release (log 8). -/
def Obligations.ResetAssertAbandonsAndRests : Prop :=
  ∀ s : State, Released s → ∃ t, exec .resetNAssert s = .next t ∧
    t = { s with
      pins := t.pins, monitor := { s.monitor with poll := none }, boot := t.boot
      dn := { s.dn with inFlight := s.dn.inFlight.map fun f => { f with stale := true } } } ∧
    t.pins = { resetAsserted := true, sensClk := .released, sensDat := .released
               spiCsN := .driven true, spiClk := .driven false, spiMosi := .driven false } ∧
    (s.boot.spi = none → t.boot = s.boot) ∧
    (s.boot.spi ≠ none → t.boot = { s.boot with spi := none, bytes := [] }) ∧
    ∀ c : Instr, c ≠ .resetNRelease → ∀ u, exec c t ≠ .next u

/-- RESET_N_RELEASE: whatever the part held, it takes the values of R18, R40, R43, R66, R97, R101, R124, R150, R162, R170
and R171; only the requests in flight on DN stay, to be discarded, and the queue of commands waiting, which is the
model's own choice (log 4). -/
def Obligations.ResetReleaseSetsEveryBlock : Prop :=
  ∀ s : State, s.pins.resetAsserted = true → ∃ t, exec .resetNRelease s = .next t ∧
    (∀ p, (portOf p t).place = .empty ∧ (portOf p t).tags = [] ∧ (portOf p t).path = [] ∧ (portOf p t).ready = []) ∧
    t.dn.lastGranted = .notice ∧ t.dn.inFlight.length = s.dn.inFlight.length ∧
    t.dn.inFlight.map (·.request) = s.dn.inFlight.map (·.request) ∧ (∀ f ∈ t.dn.inFlight, f.stale = true) ∧
    t.contexts = [] ∧
    (∀ h, hingeOf h t.monitor = { state := .unknown, validRun := 0, missRun := 0, history := [], filtered := 360 }) ∧
    t.monitor.candidate = none ∧ t.monitor.settle = .idle ∧ t.monitor.fallback = .idle ∧ t.monitor.override = none ∧
    t.monitor.period = 5 ∧ (t.monitor.poll.map (·.hinge)) = some .h1 ∧
    t.ctrl = { state := .loading, drainKind := .commit, generation := 0, active := none, target := none, old := none
               slot := none, oldWrites := [], loadHold := false, frontBank := .bank0, panelEnable := false } ∧
    t.frame = { panel := .present, lossTimer := some 24999, lastStart := none } ∧
    t.engine.map = List.replicate 4860 .done ∧ t.engine.cursor = 0 ∧ t.engine.promotion = [] ∧ t.engine.hold = [] ∧
    t.engine.tb0 = .empty ∧ t.engine.tb1 = .empty ∧ t.engine.lastIssuer = .tb1 ∧
    t.cmd = { lastSeq := 0, load := none, shadow := none, source := .none } ∧
    t.notice.set = 0 ∧ t.notice.notify = false ∧ t.notice.noticeWriter = .due ∧ t.notice.statusWriter = .due ∧
    (∀ i, counterOf t.notice.counters i = { value := 0, saturated := false }) ∧ t.notice.frameCount = 0 ∧
    t.notice.countsNext = none ∧ t.notice.countsBusy = none ∧ t.notice.responseNext = none ∧
    t.notice.responseBusy = false ∧
    t.boot.state = .readHead ∧ t.boot.bytes = [] ∧
    t.boot.spi = some { sent := [0x03#8, 0#8, 0#8, 0#8], count := 16 } ∧ t.pins.resetAsserted = false ∧
    t.pending = s.pending

/-! ## Requests at the intake (Chapter 1) -/

/-- R4: the window of an upstream byte address; nothing else enters the classification. -/
def Obligations.AddressesAreClassified : Prop :=
  ∀ a : Nat, a ≤ 0xFFFFFFFF →
    (windowOf a = some .raw ↔ a ≤ 0x03FFFFFF) ∧
    (windowOf a = some .system ↔ 0x04000000 ≤ a ∧ a ≤ 0x0400FFFF) ∧
    (∀ k, windowOf a = some (.surface k) ↔
      k ≤ 3 ∧ 0x10000000 + k * 0x04000000 ≤ a ∧ a ≤ 0x10000000 + k * 0x04000000 + 0x03FFFFFF) ∧
    (windowOf a = none ↔ (0x04010000 ≤ a ∧ a ≤ 0x0FFFFFFF) ∨ 0x20000000 ≤ a)

/-- R5: a request that no window admits is answered ADDRERR at once, in whatever controller state, with count zero pixels
for a READ, and counted as one address error; it is forwarded nowhere and reported to no watch point. The three cases of
refusal are the only ones. A request whose tag is still outstanding waits for its tag first, and is then refused. -/
def Obligations.RefusedRequestIsAnsweredAddrErr : Prop :=
  (∀ r : Request, presentable r = true →
    (admittedWindow r = none ↔
      windowOf r.address.toNat = none ∨ r.address.toNat % 4 ≠ 0 ∨
        ∃ w, windowOf r.address.toNat = some w ∧ windowLast w < r.address.toNat + 4 * bodyCount r.body - 1)) ∧
    ∀ (p : Port) (r : Request) (s : State), (Released s → TakesTag p r.tag s → presentable r = true →
      admittedWindow r = none →
      exec (.requestPresent p r) s = .next (settleOutputs s (countEvent .addressErrors 1 (setPort p { portOf p s with
        tags := (portOf p s).tags ++ [r.tag]
        ready := (portOf p s).ready ++ [[{
          response := { tag := r.tag, result := .addrErr
                        data := if bodyKind r.body = .read then List.replicate (bodyCount r.body) 0 else [] }
          origin := .refused }]] } s)))) ∧
    (tagOutstanding p r.tag s = true → Released s → presentable r = true → (portOf p s).place = .empty →
      exec (.requestPresent p r) s = .next (settleOutputs s (setPlace p (.waitTag r false) s))) ∧
    ((portOf p s).place = .waitTag r false → tagOutstanding p r.tag s = false → Released s → admittedWindow r = none →
      exec (.intakeWaitEnd p) s = .next (settleOutputs s (countEvent .addressErrors 1 (setPort p { portOf p s with
        place := .empty
        tags := (portOf p s).tags ++ [r.tag]
        ready := (portOf p s).ready ++ [[{
          response := { tag := r.tag, result := .addrErr
                        data := if bodyKind r.body = .read then List.replicate (bodyCount r.body) 0 else [] }
          origin := .refused }]] } s))))

/-- R9, R10, R153, R156: an accepted raw bank window request, a system window read, a system window write of words with no
behaviour of their own, and a table area write join the end of their port's path list as they were presented. A table
area write disturbs a running load, and a write that holds the command word reports its three fields to the command
block; for the rest nothing changes, but that the outputs settle. Presented by REQUEST_PRESENT or by the row of its kind,
a write does the same (log 6). -/
def Obligations.ForwardedRequestJoinsThePath : Prop :=
  (∀ (p : Port) (r : Request) (s : State), Released s → TakesTag p r.tag s →
    (presentable r = true → admittedWindow r = some .raw → SharesNoHeldTile p (rawTiles r) s →
      exec (.requestPresent p r) s = .next (settleOutputs s (forwarded p r s))) ∧
    (presentable r = true → bodyKind r.body = .read → admittedWindow r = some .system →
      exec (.requestPresent p r) s = .next (settleOutputs s (forwarded p r s))) ∧
    (∀ c, c = .systemWindowWrite p r ∨ c = .requestPresent p r → (Instr.systemWindowWrite p r).WellFormed →
      exec c s = .next (settleOutputs s (forwarded p r s))) ∧
    (∀ c, c = .tableAreaWrite p r ∨ c = .requestPresent p r → (Instr.tableAreaWrite p r).WellFormed →
      exec c s = .next (settleOutputs s { forwarded p r s with
        cmd := { s.cmd with load := s.cmd.load.map fun l => { l with disturbed := true } } })) ∧
    ((Instr.noticeRecordWrite p r).WellFormed → exec (.requestPresent p r) s = exec (.noticeRecordWrite p r) s) ∧
    (∀ word, presentable r = true → admittedWindow r = some .system → wordWrittenAt r 0x04000000 = some word →
      let seq : Byte := word.extractLsb' 0 8
      exec (.requestPresent p r) s = .next (settleOutputs s
        (if seq = s.cmd.lastSeq then forwarded p r s
        else runCommand seq (word.extractLsb' 8 8) (word.extractLsb' 16 16)
          { forwarded p r s with cmd := { s.cmd with lastSeq := seq } })))) ∧
  ∀ (p : Port) (tag : Tag) (seq : Byte) (arg : BitVec 16) (s : State),
    let word := fun code : Byte => exec (.requestPresent p (commandRequest tag seq code arg)) s
    word 0x01 = exec (.publish p tag seq arg) s ∧ word 0x02 = exec (.force p tag seq arg) s ∧
      word 0x03 = exec (.release p tag seq arg) s ∧ word 0x04 = exec (.report p tag seq arg) s ∧
      word 0x0F = exec (.restart p tag seq arg) s ∧
      ∀ code, code ∉ knownCodes → word code = exec (.badCommand p tag seq code arg) s

/-- R6, R8, R11, R17, R141, R142: where a request waits, and where its wait ends. A request whose tag is outstanding waits
in WAIT_TAG, and a surface request presented in LOADING in WAIT_TABLE; neither is accepted, and when the tag is free, or
LOADING is left, the request goes on exactly as if it were presented then. An accepted request that shares a tile with a
held request of its port waits in WAIT_ORDER (before the hold test: log 19), and one that must be held while 16 are held
waits in WAIT_HOLD. While its cause stands no wait ends; once it has passed, a request that need not be held joins its
path list, one that must be held and finds 16 held waits in WAIT_HOLD. -/
def Obligations.RequestWaitsAndGoesOn : Prop :=
  ∀ (p : Port) (r : Request) (s : State), Released s →
    (presentable r = true → (portOf p s).place = .empty → tagOutstanding p r.tag s = true →
      exec (.requestPresent p r) s = .next (settleOutputs s (setPlace p (.waitTag r false) s))) ∧
    (∀ k, presentable r = true → TakesTag p r.tag s → admittedWindow r = some (.surface k) → s.ctrl.state = .loading →
      exec (.requestPresent p r) s = .next (settleOutputs s (setPlace p (.waitTable r) s))) ∧
    (∀ k rc b, presentable r = true → TakesTag p r.tag s → admittedWindow r = some (.surface k) → Governs rc b s →
      (p, r.tag) ∉ s.engine.hold →
      let c := makeContext p s.ctrl.generation rc b (snapshotOf s.cmd.shadow k) k r
      let u := received p c (droppedPixels k (snapshotOf s.cmd.shadow k) rc r) s
      c.fragments ≠ [] →
      (¬ SharesNoHeldTile p c.tiles s →
        exec (.requestPresent p r) s = .next (settleOutputs s (setPlace p (.waitOrder r) u))) ∧
      (SharesNoHeldTile p c.tiles s → MustBeHeld c s → 16 ≤ s.engine.hold.length →
        exec (.requestPresent p r) s = .next (settleOutputs s (setPlace p (.waitHold r) u)))) ∧
    (presentable r = true → TakesTag p r.tag s → admittedWindow r = some .raw → ¬ SharesNoHeldTile p (rawTiles r) s →
      exec (.requestPresent p r) s = .next (settleOutputs s
        (setPort p { portOf p s with tags := (portOf p s).tags ++ [r.tag], place := .waitOrder r } s))) ∧
    (presentable r = true → tagOutstanding p r.tag s = false →
      (portOf p s).place = .waitTag r false ∨ ((portOf p s).place = .waitTable r ∧ s.ctrl.state ≠ .loading) →
      ∃ t, exec (.intakeWaitEnd p) s = .next t ∧ exec (.requestPresent p r) (setPlace p .empty s) = .next t) ∧
    ((∃ m, (portOf p s).place = .waitTag r m) ∧ tagOutstanding p r.tag s = true ∨
        (portOf p s).place = .waitTable r ∧ s.ctrl.state = .loading →
      exec (.intakeWaitEnd p) s = .refused .stillWaiting) ∧
    (∀ c, contextOf (p, r.tag) s = some c →
      ((portOf p s).place = .waitOrder r → ¬ SharesNoHeldTile p c.tiles s →
        exec (.intakeWaitEnd p) s = .refused .stillWaiting) ∧
      ((portOf p s).place = .waitHold r → MustBeHeld c s → 16 ≤ s.engine.hold.length →
        exec (.intakeWaitEnd p) s = .refused .stillWaiting) ∧
      ((portOf p s).place = .waitOrder r → SharesNoHeldTile p c.tiles s → MustBeHeld c s → 16 ≤ s.engine.hold.length →
        exec (.intakeWaitEnd p) s = .next (settleOutputs s (setPlace p (.waitHold r) s))) ∧
      ((portOf p s).place = .waitHold r ∨ (portOf p s).place = .waitOrder r → SharesNoHeldTile p c.tiles s →
        ¬ MustBeHeld c s →
        exec (.intakeWaitEnd p) s = .next (settleOutputs s (setPort p { portOf p s with
          place := .empty, path := (portOf p s).path ++ [.surface r.tag] } s)))) ∧
    ((portOf p s).place = .waitOrder r → contextOf (p, r.tag) s = none →
      (¬ SharesNoHeldTile p (rawTiles r) s → exec (.intakeWaitEnd p) s = .refused .stillWaiting) ∧
      (SharesNoHeldTile p (rawTiles r) s →
        exec (.intakeWaitEnd p) s = .next (settleOutputs s (setPort p { portOf p s with
          place := .empty, path := (portOf p s).path ++ [.forward r] } s))))

/-- R7, R11, R12, R46, R49, R50, R141: a surface request received after LOADING carries the generation, is placed by the
active record in the front bank in STEADY and by the target record in the back bank in a transition, and adds its dropped
pixels to the clipped-pixel counter. With no fragment it is answered OKAY at once, a READ with count zero pixels. With
fragments it joins its path list in STEADY, in FLIP_WAIT, and in DRAINING and RELOCATING where every tile it touches is
finished, as long as it shares no tile with a held request of its port (R17). -/
def Obligations.SurfaceRequestInSteady : Prop :=
  ∀ (p : Port) (r : Request) (k : Nat) (rc : RecordCopy) (b : Bank) (s : State), Released s → TakesTag p r.tag s →
    presentable r = true → admittedWindow r = some (.surface k) → Governs rc b s → (p, r.tag) ∉ s.engine.hold →
    let c := makeContext p s.ctrl.generation rc b (snapshotOf s.cmd.shadow k) k r
    let u := received p c (droppedPixels k (snapshotOf s.cmd.shadow k) rc r) s
    (c.fragments ≠ [] → SharesNoHeldTile p c.tiles s → ¬ MustBeHeld c s →
      exec (.requestPresent p r) s = .next (settleOutputs s
        (setPort p { portOf p u with path := (portOf p s).path ++ [.surface r.tag] } u))) ∧
    (c.fragments = [] →
      exec (.requestPresent p r) s = .next (settleOutputs s (setPort p { portOf p u with
        ready := (portOf p s).ready ++ [[{
          response := { tag := r.tag, result := .okay
                        data := if bodyKind r.body = .read then List.replicate (bodyCount r.body) 0 else [] }
          origin := .surface }]] } u))) ∧
    (s.ctrl.state = .steady ∨ s.ctrl.state = .flipWait ∨ tilesFinished s.engine.map c.tiles = true → ¬ MustBeHeld c s)

/-- R8, R131, R141, R142, R145: a surface request received in DRAINING or RELOCATING that touches an unfinished tile, or
one that waited in WAIT_HOLD or WAIT_ORDER and still does, enters the hold queue while that holds fewer than 16 and none
of its port's held requests shares a tile with it. It is counted, its port is free again and nothing joins the path list.
Of its pending tiles not queued yet, in the order of its fragments (within one fragment: log 13), as many as the queue of
16 has room for are promoted and counted; then tiles are taken into the EMPTY buffers, and with both buffers busy none
is. -/
def Obligations.SurfaceRequestIsHeld : Prop :=
  (∀ (p : Port) (r : Request) (s : State), Released s → s.engine.hold.length < 16 →
    (∀ k rc b, TakesTag p r.tag s → presentable r = true → admittedWindow r = some (.surface k) → Governs rc b s →
      (p, r.tag) ∉ s.engine.hold →
      let c := makeContext p s.ctrl.generation rc b (snapshotOf s.cmd.shadow k) k r
      let u := received p c (droppedPixels k (snapshotOf s.cmd.shadow k) rc r) s
      c.fragments ≠ [] → SharesNoHeldTile p c.tiles s → MustBeHeld c s →
      exec (.requestPresent p r) s = .next (settleOutputs s (takeTiles (enteredHold (p, r.tag) c u)))) ∧
    ∀ c, (portOf p s).place = .waitHold r ∨ (portOf p s).place = .waitOrder r → contextOf (p, r.tag) s = some c →
      SharesNoHeldTile p c.tiles s → MustBeHeld c s →
      exec (.intakeWaitEnd p) s = .next (settleOutputs s (takeTiles (enteredHold (p, r.tag) c (setPlace p .empty s))))) ∧
  ∀ s : State, s.engine.tb0 ≠ .empty → s.engine.tb1 ≠ .empty → takeTiles s = s

/-! ## Watched writes and reads of the system window (Chapters 1, 8 and 9) -/

/-- R165, R166, R178: a host write to the notice record is forwarded and is outstanding for the notice writer; in WRITE
mode the kinds its word marks leave the notice set, in READ mode, which also holds while the shadow table is empty, none
does. -/
def Obligations.NoticeRecordWriteAcknowledges : Prop :=
  ∀ (p : Port) (r : Request) (w : Pixel) (s : State), Released s → TakesTag p r.tag s →
    (Instr.noticeRecordWrite p r).WellFormed → wordWrittenAt r noticeRecordAddress = some w →
    ∃ t, exec (.noticeRecordWrite p r) s = .next t ∧ t = { forwarded p r s with notice := t.notice } ∧
      NoticeKept { s.notice with
        set := t.notice.set, noticeWriter := t.notice.noticeWriter
        hostWrites := s.notice.hostWrites ++ [(p, r.tag)] } t.notice ∧
      (∀ k, kindPending t.notice.set k = true ↔ kindPending s.notice.set k = true ∧
        ¬ ((∃ tb, s.cmd.shadow = some tb ∧ tb.ackMode = .write) ∧ w.getLsbD (kindNumber k) = true)) ∧
      (t.notice.set = s.notice.set → t.notice.noticeWriter = s.notice.noticeWriter) ∧
      (t.notice.set ≠ s.notice.set → t.notice.noticeWriter = writerChanged s.notice.noticeWriter)

/-- R2, R165: the response of a host read of the notice record is sent, by NOTICE_RECORD_READ or by RESPONSE_SEND (log 7). It
leaves its port and frees its tag; in READ mode, which also holds while the shadow table is empty, the kinds marked in the
word returned leave the notice set, in WRITE mode none does. A request that RESTART marked for this tag is answered ABORTED
at once (R19, log 10). The response answers no surface write, so it is not the last of the old-write set. -/
def Obligations.NoticeRecordReadAcknowledges : Prop :=
  ∀ (p : Port) (tag : Tag) (rr : ReadyResponse) (r : Request) (i : Nat) (s : State), Released s →
    nextResponse p tag s = some rr → rr.origin = .forwarded r → noticeReadPosition r = some i →
    ((p, tag) ∈ s.ctrl.oldWrites → s.ctrl.state = .draining → ∃ k ∈ s.ctrl.oldWrites, k ≠ (p, tag)) →
    ∃ notice : NoticeUnit,
      notice = { s.notice with set := notice.set, noticeWriter := notice.noticeWriter } ∧
      (∀ k, kindPending notice.set k = true ↔ kindPending s.notice.set k = true ∧
        ¬ ((∀ tb, s.cmd.shadow = some tb → tb.ackMode = .read) ∧
            (rr.response.data.getD i 0).getLsbD (kindNumber k) = true)) ∧
      (notice.set = s.notice.set → notice.noticeWriter = s.notice.noticeWriter) ∧
      (notice.set ≠ s.notice.set → notice.noticeWriter = writerChanged s.notice.noticeWriter) ∧
      let left := { afterSending p tag rr s with notice := notice }
      ∀ c, c = .noticeRecordRead p tag ∨ c = .responseSend p tag →
        ((∀ q, (portOf p s).place = .waitTag q true → q.tag ≠ tag) → exec c s = .next (settleOutputs s left)) ∧
        ∀ q, (portOf p s).place = .waitTag q true → q.tag = tag →
          exec c s = .next (settleOutputs s (markedAborted p q left))


/-- R2, R19, R107, R166: a port sends its next ready response: it leaves the port, its tag is free, its context discarded,
and a write in the old-write set leaves that. Where it does not end the drain and touches no notice record, nothing else
changes; the response of a host write to the notice record makes the notice record due. Where a request that RESTART
marked waits in WAIT_TAG for this tag, its ABORTED becomes ready at once, with count zero pixels for a READ, and holds the
tag in its turn (log 10). -/
def Obligations.ResponseIsSent : Prop :=
  ∀ (p : Port) (tag : Tag) (rr : ReadyResponse) (notice : NoticeUnit) (s : State), Released s →
    nextResponse p tag s = some rr →
    ((p, tag) ∈ s.ctrl.oldWrites → s.ctrl.state = .draining → ∃ k ∈ s.ctrl.oldWrites, k ≠ (p, tag)) →
    ((∀ r, rr.origin = .forwarded r → writesNoticeRecord r = false ∧ noticeReadPosition r = none) ∧ notice = s.notice) ∨
      (∃ r, rr.origin = .forwarded r ∧ writesNoticeRecord r = true ∧ notice = { s.notice with
        hostWrites := s.notice.hostWrites.filter fun k => k ≠ (p, r.tag)
        noticeWriter := writerChanged s.notice.noticeWriter }) →
    let left := { afterSending p tag rr s with notice := notice }
    ((∀ q, (portOf p s).place = .waitTag q true → q.tag ≠ tag) →
      exec (.responseSend p tag) s = .next (settleOutputs s left)) ∧
    ∀ q, (portOf p s).place = .waitTag q true → q.tag = tag →
      exec (.responseSend p tag) s = .next (settleOutputs s (markedAborted p q left))


/-- R107, R108, R112, R113: when the response of the last old write is sent in DRAINING the controller leaves DRAINING with
the old-write set empty: to RELOCATING, the plan cursor at 0 again and tiles taken into the EMPTY buffers, or, with every
tile finished, both buffers EMPTY and no request held, to FLIP_WAIT at the same event. There it stays while panel timing is
PRESENT; with panel timing LOST the flip is taken at once, and the pending slot resolved. A request that RESTART marked for
this tag is answered ABORTED at the same event (R19, log 10). -/
def Obligations.LastOldWriteEndsTheDrain : Prop :=
  ∀ (p : Port) (tag : Tag) (rr : ReadyResponse) (s : State), Released s → nextResponse p tag s = some rr →
    rr.origin = .surface → s.ctrl.state = .draining → s.ctrl.oldWrites = [(p, tag)] →
    let drained := { afterSending p tag rr s with
      ctrl := { s.ctrl with oldWrites := [], state := .relocating }
      engine := { s.engine with cursor := 0 } }
    let waiting := { takeTiles drained with ctrl := { s.ctrl with oldWrites := [], state := .flipWait } }
    relocationComplete (takeTiles drained).engine = relocationComplete s.engine ∧
    (relocationComplete s.engine = true → waiting.engine.map = s.engine.map ∧ waiting.engine.hold = []) ∧
    ∃ v : State,
      (relocationComplete s.engine = false → v = takeTiles drained ∧ v.ctrl = drained.ctrl) ∧
      (relocationComplete s.engine = true → s.frame.panel = .present → v = waiting) ∧
      (relocationComplete s.engine = true → s.frame.panel = .lost → SlotResolved (flipped waiting) v) ∧
      ((∀ q, (portOf p s).place = .waitTag q true → q.tag ≠ tag) →
        exec (.responseSend p tag) s = .next (settleOutputs s v)) ∧
      ∀ q, (portOf p s).place = .waitTag q true → q.tag = tag →
        exec (.responseSend p tag) s = .next (settleOutputs s (markedAborted p q v))


/-! ## The downstream port (Chapter 1) -/

/-- R13, R14: while fewer than 48 requests are in flight, the first requester found waiting after the last-granted place,
in the cyclic order UP0's path, UP1's path, the relocation engine, the table loader, the notice unit, is granted: its
request is the newest in flight and the pointer names it. While 48 are in flight, no grant is made. -/
def Obligations.ArbiterGrantsInCyclicOrder : Prop :=
  let places : List Requester := [.path .up0, .path .up1, .relocation, .loader, .notice]
  (∀ (pick : RecordWriter) (q : Requester) (i : Issue) (last steps : Nat) (s : State), Released s →
      s.dn.inFlight.length < 48 → places[last]? = some s.dn.lastGranted → 1 ≤ steps → steps ≤ 5 →
      places[(last + steps) % 5]? = some q →
      (∀ k b, 1 ≤ k → k < steps → places[(last + k) % 5]? = some b → requesterWaits s b = false) →
      requesterWaits s q = true → requesterIssue pick q s = some i →
      i.sent.request.requester = q ∧ i.sent.stale = false ∧
        exec (.arbiterGrant pick) s = .next (settleOutputs s { i.after with
          dn := { inFlight := s.dn.inFlight ++ [i.sent], lastGranted := q } })) ∧
    ∀ (pick : RecordWriter) (s : State), Released s → 48 ≤ s.dn.inFlight.length →
      exec (.arbiterGrant pick) s = .refused .nothingToGrant

/-- What the requesters issue, each moving only itself on. A path list: a forwarded request unchanged (R9), or the next
fragment of a surface request in issue order, which leaves the list with its last fragment (R11, R60). The relocation
engine: of a buffer that is READING without the abandon mark or WRITING, with fewer than 40 requests issued, and of two
such, of the one that did not issue the engine's last request (R133), the next row, rows in order, at the row addresses
(R134, R135); with no such buffer, nothing. The table loader: its next read (R155). The
notice unit: of the writes that became ready first one, and with several of them the operand picks (R166, log 21): the
records of R177 and R178 with their contents as they stand, the status fields of R167 and the counts that wait (R169),
every mask entry WRITE. Each request carries with it whom its answer is handed to (R15). -/
def Obligations.RequestersIssueTheirRequests : Prop :=
  let sends := fun (i : Issue) (q : DnRequest) (o : Owner) => i.sent = { request := q, owner := o, stale := false }
  let whole := fun ws : List Pixel => Body.write (ws.map fun w => { word := w, mask := .write })
  (∀ (p : Port) (r : Request) (es : List PathEntry) (s : State), (portOf p s).path = .forward r :: es →
      ∃ i, pathIssue p s = some i ∧
        sends i { requester := .path p, address := r.address.toNat, body := r.body } (.forward p r) ∧
        i.after = setPort p { portOf p s with path := es } s) ∧
    (∀ (p : Port) (tag : Tag) (es : List PathEntry) (c : Context) (n : Nat) (f : Fragment) (s : State),
      (portOf p s).path = .surface tag :: es → contextOf (p, tag) s = some c → c.fragments[n]? = some f →
      f.state = .notIssued → (∀ m g, m < n → c.fragments[m]? = some g → g.state ≠ .notIssued) →
      let moved := { s with contexts := s.contexts.map fun d =>
        if d.port = p ∧ d.tag = tag then { c with fragments := c.fragments.set n { f with state := .inFlight } } else d }
      ∃ i, pathIssue p s = some i ∧
        sends i { requester := .path p, address := f.address
                  body := match c.kind with
                    | .read => .read f.count
                    | .write => whole f.data } (.fragment p tag n) ∧
        i.after = if n + 1 = c.fragments.length then setPort p { portOf p s with path := es } moved else moved) ∧
    (∀ s : State,
      let has := fun b : BufferId =>
        (∃ r, bufferOf b s.engine = .reading r ∧ r.abandon = false ∧ r.issued < 40) ∨
          ∃ w, bufferOf b s.engine = .writing w ∧ w.issued < 40
      (∀ b, has b → ¬ has (otherBuffer b) ∨ b ≠ s.engine.lastIssuer → nextBuffer s.engine = some b) ∧
      ((∀ b, ¬ has b) → nextBuffer s.engine = none ∧ relocationIssue s = none)) ∧
    (∀ (b : BufferId) (r : Reading) (s : State), nextBuffer s.engine = some b → bufferOf b s.engine = .reading r →
      ∃ i, relocationIssue s = some i ∧
        sends i {
          requester := .relocation
          address := bankBase r.bank + ((40 * r.move.source.row + r.issued) * 3240 + 40 * r.move.source.col) * 4
          body := .read 40 } (.row b) ∧
        i.after = { s with engine := { setBuffer b (.reading { r with issued := r.issued + 1 }) s.engine with
          lastIssuer := b } }) ∧
    (∀ (b : BufferId) (w : Writing) (s : State), nextBuffer s.engine = some b → bufferOf b s.engine = .writing w →
      ∃ i, relocationIssue s = some i ∧
        sends i {
          requester := .relocation
          address := bankBase w.bank + ((40 * w.tile.row + w.issued) * 3240 + 40 * w.tile.col) * 4
          body := whole (w.rows.getD w.issued []) } (.row b) ∧
        i.after = { s with engine := { setBuffer b (.writing { w with issued := w.issued + 1 }) s.engine with
          lastIssuer := b } }) ∧
    (∀ (l : TableLoad) (a n : Nat) (later : List (Nat × Nat)) (s : State), s.cmd.load = some l →
      l.toIssue = (a, n) :: later → ∃ i, loaderIssue s = some i ∧
        sends i { requester := .loader, address := a, body := .read n } .loader ∧
        i.after = { s with cmd := { s.cmd with load := some { l with toIssue := later, inFlight := l.inFlight + 1 } } }) ∧
    (∀ (pick : RecordWriter) (s : State),
      (∀ p, requesterIssue pick (.path p) s = pathIssue p s) ∧
      requesterIssue pick .relocation s = relocationIssue s ∧ requesterIssue pick .loader s = loaderIssue s ∧
      (s.notice.readyQueue = [] → requesterIssue pick .notice s = none) ∧
      ∀ oldest later, s.notice.readyQueue = oldest :: later →
        (pick ∈ oldest → requesterIssue pick .notice s = recordIssue pick s) ∧
        (oldest ≠ [] → ∃ w ∈ oldest, requesterIssue pick .notice s = recordIssue w s)) ∧
    (∀ s : State, ∃ i, recordIssue .notice s = some i ∧
      sends i { requester := .notice, address := 0x04000100
                body := whole [s.notice.set.setWidth 32] } (.record .notice) ∧
      i.after = { s with notice := { s.notice with noticeWriter := writerIssued s.notice.noticeWriter } }) ∧
    (∀ s : State,
      let number := fun n : Option Nat => (n.elim 0xFF#8 (BitVec.ofNat 8) : Byte)
      let hinge := fun h : HingeState => (match h with | .unknown => 0 | .present => 1 | .lost => 2 : Byte)
      let state : Byte := match s.ctrl.state with
        | .loading => 0 | .draining => 1 | .relocating => 2 | .flipWait => 3 | .steady => 4
      let bank : Byte := match s.ctrl.frontBank with | .bank0 => 0 | .bank1 => 1
      let panel : Byte := match s.frame.panel with | .present => 0 | .lost => 1
      let source : Byte := match s.cmd.source with | .none => 0 | .nvm => 1 | .builtIn => 2 | .memory => 3
      ∃ i, recordIssue .status s = some i ∧
      sends i { requester := .notice, address := 0x04000200, body := whole [
        s.ctrl.generation ++ bank ++ state,
        number s.monitor.override ++ number s.ctrl.slot ++ number (targetNumber s) ++ number (activeNumber s),
        BitVec.ofNat 16 s.monitor.h2.filtered ++ BitVec.ofNat 16 s.monitor.h1.filtered,
        source ++ panel ++ hinge s.monitor.h2.state ++ hinge s.monitor.h1.state] } (.record .status) ∧
      i.after = { s with notice := { s.notice with statusWriter := writerIssued s.notice.statusWriter } }) ∧
    (∀ (r : HostResponse) (s : State), s.notice.responseNext = some r → ∃ i, recordIssue .response s = some i ∧
      sends i { requester := .notice, address := 0x04000004
                body := whole [r.detail ++ resultCode r.result ++ r.seq] } (.record .response) ∧
      i.after = { s with notice := { s.notice with responseNext := none, responseBusy := true } }) ∧
    ∀ (w : CountsWrite) (s : State), s.notice.countsNext = some w → ∃ i ws, recordIssue .counts s = some i ∧
      sends i { requester := .notice, address := 0x04000300, body := whole ws } (.record .counts) ∧ ws.length = 7 ∧
      i.after = { s with notice := { s.notice with
        countsNext := none, countsBusy := some { reports := w.reports, overtaken := false } } } ∧
      let flags := ws.getD 6 0
      (∀ j c, [CounterId.clipped, .addressErrors, .memoryErrors, .held, .promotions, .moved, .filled, .failed,
          .replacements, .misses, .clamps, .transitions][j]? = some c →
        (ws.getD (j / 2) 0).extractLsb' (16 * (j % 2)) 16 = BitVec.ofNat 16 (counterOf w.counters c).value ∧
        flags.getLsbD j = (counterOf w.counters c).saturated) ∧ ∀ j, 12 ≤ j → flags.getLsbD j = false

/-- R63, R64, R12: the answer to a fragment is recorded as OK or FAILED; the last one makes the response ready, MEMERR
where any fragment is FAILED and OKAY where none is, its pixels taken through the pixel map with zeros for what no OK
fragment carried. No memory error is counted (R16). -/
def Obligations.FragmentAnswerIsRecorded : Prop :=
  ∀ (a : Answer) (f : InFlight) (rest : List InFlight) (p : Port) (tag : Tag) (i : Nat) (c : Context) (s : State),
    Released s → AnswerIsNext a f rest s → f.owner = .fragment p tag i → contextOf (p, tag) s = some c →
    let recorded : List Fragment := c.fragments.modify i fun g => match a with
      | .ok data => { g with state := .ok, got := data }
      | .memoryError => { g with state := .failed }
    let after := { s with
      dn := { s.dn with inFlight := rest }
      contexts := s.contexts.map fun d => if d.port = c.port ∧ d.tag = c.tag then { c with fragments := recorded } else d }
    ((∃ g ∈ recorded, g.state = .notIssued ∨ g.state = .inFlight) →
      exec (.fragmentAnswer a) s = .next (settleOutputs s after)) ∧
    ((∀ g ∈ recorded, g.state = .ok ∨ g.state = .failed) → ∃ rr,
      exec (.fragmentAnswer a) s = .next (settleOutputs s (setPort p { portOf p s with
        ready := (portOf p s).ready ++ [[rr]] } after)) ∧
      rr.origin = .surface ∧ rr.response.tag = c.tag ∧
      (rr.response.result = .memErr ↔ ∃ g ∈ recorded, g.state = .failed) ∧
      (rr.response.result = .okay ↔ ∀ g ∈ recorded, g.state = .ok) ∧
      rr.response.data.length = c.pixelMap.length ∧
      ∀ (j : Nat) (e : Option (Nat × Nat)), c.pixelMap[j]? = some e → rr.response.data[j]? = some (match e with
        | none => 0
        | some (n, at_) => match recorded[n]? with
          | some g => if g.state = .ok then g.got.getD at_ 0 else 0
          | none => 0))

/-- R9, R16: the answer to a forwarded request makes its response ready: OKAY with the words returned, or MEMERR with
count zero pixels; no memory error is counted. -/
def Obligations.ForwardedAnswerIsReturned : Prop :=
  ∀ (a : Answer) (f : InFlight) (rest : List InFlight) (p : Port) (r : Request) (s : State), Released s →
    AnswerIsNext a f rest s → f.owner = .forward p r →
    exec (.forwardedAnswer a) s = .next (settleOutputs s (setPort p { portOf p s with
      ready := (portOf p s).ready ++ [[{
        response := {
          tag := r.tag
          result := match a with
            | .ok _ => .okay
            | .memoryError => .memErr
          data := match bodyKind r.body, a with
            | .write, _ => []
            | .read, .ok data => data
            | .read, .memoryError => List.replicate (bodyCount r.body) 0 }
        origin := .forwarded r }]] } { s with dn := { s.dn with inFlight := rest } }))

/-! ## The relocation engine (Chapter 7) -/

/-- R135, R136, R139: the answers that fill and empty a buffer. An OK answer to a row read of a move stores the row; the
40th makes the buffer WRITING with its 40 rows of 40 pixels, in the bank the reads did not come from. Each destination
pixel is the source pixel that shares its logical in-tile offset, rescaled from the gain code of its column under the old
record to that of the destination's column under the target record. An answer to a row write before the 40th is counted;
the first failing one of the tile counts one memory error, raises MEMORY_ERROR and marks the tile failed. -/
def Obligations.RowAnswersAreKept : Prop :=
  (∀ (data : List Pixel) (f : InFlight) (rest : List InFlight) (b : BufferId) (r : Reading) (s : State), Released s →
    AnswerIsNext (.ok data) f rest s → f.owner = .row b → bufferOf b s.engine = .reading r → r.abandon = false →
    exec (.rowReadAnswer (.ok data)) s = .next (settleOutputs s { s with
      dn := { s.dn with inFlight := rest }
      engine := setBuffer b
        (if r.answered + 1 = 40 then
          .writing { tile := r.tile, bank := otherBank r.bank, op := .move
                     rows := moveRows (s.ctrl.target.getD blankRecord) (s.ctrl.old.getD blankRecord) r.move r.tile
                       (r.rows ++ [data])
                     issued := 0, answered := 0, failure := false }
        else .reading { r with answered := r.answered + 1, rows := r.rows ++ [data] }) s.engine })) ∧
    (∀ (target old : RecordCopy) (m : MoveSpec) (dest : Tile) (rows : List (List Pixel)) (p q : Pane),
      target.panes[m.targetPane]? = some p → old.panes[m.oldPane]? = some q →
      let out := moveRows target old m dest rows
      out.length = 40 ∧ (∀ row ∈ out, row.length = 40) ∧
      (∀ a b, a < 40 → b < 40 →
        let put := placeOffset p a b
        let at_ := placeOffset q a b
        (out.getD put.2 [])[put.1]? = some (creaseRescale (gainCode old (40 * m.source.col + at_.1))
          (gainCode target (40 * dest.col + put.1)) ((rows.getD at_.2 []).getD at_.1 0))) ∧
      ∀ c r, c < 40 → r < 40 → ∃ a b, a < 40 ∧ b < 40 ∧ placeOffset p a b = (c, r)) ∧
    ∀ (a : Answer) (f : InFlight) (rest : List InFlight) (b : BufferId) (w : Writing) (s : State), Released s →
      AnswerIsNext a f rest s → f.owner = .row b → bufferOf b s.engine = .writing w → w.answered + 1 ≠ 40 →
      let counted := if a = .memoryError ∧ w.failure = false then countMemoryError s else s
      exec (.rowWriteAnswer a) s = .next (settleOutputs s { counted with
        dn := { s.dn with inFlight := rest }
        engine := setBuffer b (.writing { w with
          answered := w.answered + 1, failure := w.failure || decide (a = .memoryError) }) s.engine })

/-- R72, R134, R138: the first failing answer to a row read of a move counts one memory error, raises MEMORY_ERROR and
abandons the move; later answers, OK or failing, count nothing. When every read issued has been answered, the tile becomes
a fill of its surface in the same buffer, with every row to be written. The rows of a fill, of this one as of every other:
40, each of the same 40 values, that of column X being the surface's fill pixel, or the dark pixel, through the write path
with the gain code of X under the target record. -/
def Obligations.FailedRowReadAbandonsTheMove : Prop :=
  (∀ (target : RecordCopy) (tb : Table) (fill : FillKind) (t : Tile),
    let value := match fill with
      | .surface k _ => (tableSurface tb k).fill
      | .dark => tb.dark
    let rows := fillRows target (fillValue (some tb) fill) t
    rows.length = 40 ∧ (∀ row ∈ rows, row.length = 40) ∧
    ∀ q col, q < 40 → col < 40 →
      (rows.getD q [])[col]? = some (creaseWrite (gainCode target (40 * t.col + col)) value)) ∧
  ∀ (a : Answer) (f : InFlight) (rest : List InFlight) (b : BufferId) (r : Reading) (target : RecordCopy) (p : Pane)
    (s : State), Released s → AnswerIsNext a f rest s → f.owner = .row b → bufferOf b s.engine = .reading r →
    a = .memoryError ∨ r.abandon = true →
    s.ctrl.target = some target → target.panes[r.move.targetPane]? = some p →
    let counted := if a = .memoryError ∧ r.abandon = false then countMemoryError s else s
    let fill : FillKind := .surface p.surface r.move.targetPane
    let kept := match a with
      | .ok data => r.rows ++ [data]
      | .memoryError => r.rows
    exec (.rowReadAnswer a) s = .next (settleOutputs s { counted with
      dn := { s.dn with inFlight := rest }
      engine :=
        if r.answered + 1 = r.issued then
          setBuffer b (.writing {
            tile := r.tile, bank := otherBank s.ctrl.frontBank, op := .fill
            rows := fillRows target (fillValue s.cmd.shadow fill) r.tile, issued := 0, answered := 0, failure := false })
            { s.engine with map := setEntry s.engine.map r.tile (.filling fill b) }
        else setBuffer b (.reading { r with answered := r.answered + 1, abandon := true, rows := kept }) s.engine })

/-- R137, R139, R143: at the 40th answer to the row writes of a tile, in this order: the entry is DONE and the move or the
fill is counted, or with a failing answer among the 40 it is FAILED and counted as failed; where the 40th is the tile's
first failing answer it counts one memory error and raises MEMORY_ERROR, and no other notice is raised; the buffer is
EMPTY; the held requests whose tiles are all finished join their ports' path lists and those with an unfinished tile stay,
in their order; then tiles are taken and the completion test is made. -/
def Obligations.TileOperationEnds : Prop :=
  ∀ (a : Answer) (f : InFlight) (rest : List InFlight) (b : BufferId) (w : Writing) (s : State), Released s →
    AnswerIsNext a f rest s → f.owner = .row b → bufferOf b s.engine = .writing w → w.answered + 1 = 40 →
    let fails := w.failure = true ∨ a = .memoryError
    let firstFails := a = .memoryError ∧ w.failure = false
    let finished := setEntry s.engine.map w.tile (if w.failure = true ∨ a = .memoryError then .failed else .done)
    let unfinished : Key → Bool := fun key => match contextOf key s with
      | none => false
      | some c => !tilesFinished finished c.tiles
    ∃ u, exec (.rowWriteAnswer a) s = .next (settleOutputs s (completionTest (takeTiles u))) ∧
      u = { s with up0 := u.up0, up1 := u.up1, dn := { s.dn with inFlight := rest }, engine := u.engine
                   notice := { s.notice with
                     counters := u.notice.counters, set := u.notice.set, noticeWriter := u.notice.noticeWriter } } ∧
      u.engine = setBuffer b .empty { s.engine with map := finished, hold := s.engine.hold.filter unfinished } ∧
      (∀ p, portOf p u = { portOf p s with path := (portOf p s).path ++
        (s.engine.hold.filter fun k => k.1 = p ∧ unfinished k = false).map fun k => .surface k.2 }) ∧
      (fails → u.notice.counters.failed = addCount 1 s.notice.counters.failed ∧
        u.notice.counters.moved = s.notice.counters.moved ∧ u.notice.counters.filled = s.notice.counters.filled) ∧
      (¬ fails → u.notice.counters = match w.op with
        | .move => { s.notice.counters with moved := addCount 1 s.notice.counters.moved }
        | .fill => { s.notice.counters with filled := addCount 1 s.notice.counters.filled }) ∧
      (firstFails → u.notice.counters.memoryErrors = addCount 1 s.notice.counters.memoryErrors ∧
        u.notice.set = s.notice.set ||| kindBit .memoryError ∧
        u.notice.noticeWriter = if u.notice.set = s.notice.set then s.notice.noticeWriter
          else writerChanged s.notice.noticeWriter) ∧
      (¬ firstFails → u.notice.counters.memoryErrors = s.notice.counters.memoryErrors ∧
        u.notice.set = s.notice.set ∧ u.notice.noticeWriter = s.notice.noticeWriter)

/-- R130, R131, R134, R135, R146, R147: what an EMPTY buffer takes. In RELOCATING the first tile of the promotion queue, in
a drain of kind COMMIT its first PENDING_FILL tile; with none there, the first plan position at or after the cursor whose
entry the pass wants and that is not queued, and the cursor stands after it; with none, the cursor stands at 4860 and the
buffer stays EMPTY. A take makes the entry MOVING or FILLING and names the buffer, which is READING in the bank SCAN_BANK
names, or WRITING the rows of a fill in the back bank, with nothing issued. After a take from the promotion queue the
pending tiles of the held requests that are not queued yet, the oldest request's first, in the order of its fragments
(within one fragment: log 13), join it up to 16 and are counted. In a restart drain and outside DRAINING and RELOCATING
nothing is taken. A buffer that is not EMPTY takes nothing; with both EMPTY, TB0 takes first. -/
def Obligations.BufferTakesTheOffer : Prop :=
  (∀ s : State, takeTiles s = takeTile .tb1 (takeTile .tb0 s)) ∧
  ∀ (b : BufferId) (s : State),
    (bufferOf b s.engine ≠ .empty → takeTile b s = s) ∧
    (s.ctrl.state ≠ .relocating ∧ (s.ctrl.state ≠ .draining ∨ s.ctrl.drainKind = .restart) → takeTile b s = s) ∧
    ∀ wanted : TileState → Bool, bufferOf b s.engine = .empty →
      (s.ctrl.state = .relocating ∧ wanted = isPending) ∨
        (s.ctrl.state = .draining ∧ s.ctrl.drainKind = .commit ∧ wanted = isPendingFill) →
      (∀ t ∈ s.engine.promotion, isPending (entryAt s.engine.map t) = true) →
      let plan := planTiles (targetRecord s)
      let begun := fun (t : Tile) (e : Engine) => match entryAt e.map t with
        | .pendingMove m =>
          setBuffer b (.reading { tile := t, move := m, bank := s.ctrl.frontBank, issued := 0, answered := 0, rows := []
                                  abandon := false })
            { e with map := setEntry e.map t (.moving m b) }
        | .pendingFill k =>
          setBuffer b (.writing {
            tile := t, bank := otherBank s.ctrl.frontBank, op := .fill
            rows := fillRows (targetRecord s) (fillValue s.cmd.shadow k) t, issued := 0, answered := 0, failure := false })
            { e with map := setEntry e.map t (.filling k b) }
        | _ => e
      (∀ before t after, s.engine.promotion = before ++ t :: after →
        (∀ q ∈ before, wanted (entryAt s.engine.map q) = false) → wanted (entryAt s.engine.map t) = true →
        let taken := { s with engine := begun t { s.engine with promotion := s.engine.promotion.erase t } }
        let offered := s.engine.hold.flatMap fun key => (contextOf key s).elim [] (·.tiles)
        takeTile b s = promoted (joining offered taken) taken) ∧
      ((∀ t ∈ s.engine.promotion, wanted (entryAt s.engine.map t) = false) →
        (∀ i t, s.engine.cursor ≤ i → plan[i]? = some t → wanted (entryAt s.engine.map t) = true →
          t ∉ s.engine.promotion →
          (∀ j u, s.engine.cursor ≤ j → j < i → plan[j]? = some u →
            wanted (entryAt s.engine.map u) = true → u ∈ s.engine.promotion) →
          takeTile b s = { s with engine := begun t { s.engine with cursor := i + 1 } }) ∧
        ((∀ i t, s.engine.cursor ≤ i → plan[i]? = some t → wanted (entryAt s.engine.map t) = true →
            t ∈ s.engine.promotion) →
          takeTile b s = { s with engine := { s.engine with cursor := 4860 } }))
/-- R18, R152, R160: an unexamined answer. To a request of before a hardware reset, it only leaves DN; to a DISCARDING
buffer, it lowers the count, and with the last the buffer is EMPTY and may take a tile; to an abandoned load, it lowers
the count, and with the last no load runs. Nothing is counted or raised, whatever the answer. -/
def Obligations.DiscardedAnswerIsDropped : Prop :=
  ∀ (a : Answer) (f : InFlight) (rest : List InFlight) (s : State), Released s → s.dn.inFlight = f :: rest →
    let left := { s with dn := { s.dn with inFlight := rest } }
    (f.stale = true → exec (.discardedAnswer a) s = .next (settleOutputs s left)) ∧
    (∀ b n, f.stale = false → f.owner = .row b → bufferOf b s.engine = .discarding n →
      (2 ≤ n → exec (.discardedAnswer a) s =
        .next (settleOutputs s { left with engine := setBuffer b (.discarding (n - 1)) s.engine })) ∧
      (n ≤ 1 → exec (.discardedAnswer a) s = .next (settleOutputs s (completionTest (takeTiles
        { left with engine := setBuffer b .empty s.engine }))))) ∧
    ∀ l, f.stale = false → f.owner = .loader → s.cmd.load = some l → l.abandoned = true →
      exec (.discardedAnswer a) s = .next (settleOutputs s { left with cmd := { s.cmd with
        load := if l.inFlight ≤ 1 then none else some { l with inFlight := l.inFlight - 1 } } })

/-! ## The table load and the records (Chapters 8 and 9) -/

/-- R155, R156: an answer to a read of a load that does not end it. The head answered OK with FORMAT checks 1 to 3 passed
asks for the rest of the image; a later OK answer adds its bytes; the first failing answer of the rest counts one memory
error, raises MEMORY_ERROR and stops further reads. -/
def Obligations.LoaderAnswerIsKept : Prop :=
  ∀ (f : InFlight) (rest : List InFlight) (l : TableLoad) (s : State), Released s → f.owner = .loader →
    s.cmd.load = some l →
    (∀ data, AnswerIsNext (.ok data) f rest s → l.awaitingHead = true →
      formatHeadFailure (l.bytes ++ bytesOfPixels data) = none →
      exec (.loaderReadAnswer (.ok data)) s = .next (settleOutputs s { s with
        dn := { s.dn with inFlight := rest }
        cmd := { s.cmd with load := some { l with
          awaitingHead := false, bytes := l.bytes ++ bytesOfPixels data, inFlight := l.inFlight - 1
          length := half16At (l.bytes ++ bytesOfPixels data) 2
          toIssue := remainderReads (half16At (l.bytes ++ bytesOfPixels data) 2) } } })) ∧
    (∀ data, AnswerIsNext (.ok data) f rest s → l.awaitingHead = false → l.toIssue ≠ [] ∨ 2 ≤ l.inFlight →
      exec (.loaderReadAnswer (.ok data)) s = .next (settleOutputs s { s with
        dn := { s.dn with inFlight := rest }
        cmd := { s.cmd with load := some { l with
          bytes := l.bytes ++ bytesOfPixels data, inFlight := l.inFlight - 1 } } })) ∧
    (AnswerIsNext .memoryError f rest s → l.awaitingHead = false → 2 ≤ l.inFlight →
      exec (.loaderReadAnswer .memoryError) s =
        .next (settleOutputs s { (if l.readFailed then s else countMemoryError s) with
          dn := { s.dn with inFlight := rest }
          cmd := { s.cmd with load := some { l with
            readFailed := true, toIssue := [], inFlight := l.inFlight - 1 } } }))

/-- R104, R110, R155, R156, R157: a load ends at the answer to its head, where that is a memory error or one of FORMAT
checks 1 to 3 fails, and at the last answer to its rest. A first failing answer is counted and raises MEMORY_ERROR. A
disturbed, unreadable or invalid load, in this order, keeps the table and raises TABLE_REJECTED with its response; a valid
image becomes the shadow table with source MEMORY, the monitor acts on it, TABLE_LOADED is raised and DONE formed. The
load hold is OFF, and the pending slot is resolved from the table then in force, where the active layout keeps its
arrangement. -/
def Obligations.TableLoadEnds : Prop :=
  ∀ (a : Answer) (f : InFlight) (rest : List InFlight) (l : TableLoad) (s : State), Released s →
    AnswerIsNext a f rest s → f.owner = .loader → s.cmd.load = some l →
    let bytes := match a with
      | .ok data => l.bytes ++ bytesOfPixels data
      | .memoryError => l.bytes
    let image := if l.awaitingHead then bytes else bytes.take l.length
    (l.awaitingHead = true ∧ (a = .memoryError ∨ formatHeadFailure image ≠ none)) ∨
      (l.awaitingHead = false ∧ l.inFlight = 1 ∧ (a = .memoryError ∨ l.toIssue = [])) →
    let unreadable := a = .memoryError ∨ l.readFailed = true
    let ended := { (if a = .memoryError ∧ l.readFailed = false then countMemoryError s else s) with
      dn := { s.dn with inFlight := rest }
      cmd := { s.cmd with load := none }
      ctrl := { s.ctrl with loadHold := false } }
    let rejected := fun (result : CommandResult) (detail : BitVec 16) => ∃ u, SlotResolved ended u ∧
      exec (.loaderReadAnswer a) s = .next (settleOutputs s (respond l.seq result detail (raise .tableRejected u)))
    (l.disturbed = true → rejected .tableDisturbed 0) ∧
    (l.disturbed = false → unreadable → rejected .tableRejected 0xFF80#16) ∧
    (∀ d, l.disturbed = false → ¬ unreadable → validate image = some d → rejected .tableRejected (packDetail d)) ∧
    (∀ d, formatHeadFailure image = some d → validate image = some d) ∧
    (l.disturbed = false → ¬ unreadable → validate image = none →
      (∀ c, s.ctrl.active = some c → ∀ r, tableRecord (tableOfImage image) c.number = some r →
        sameArrangement (copyRecord (tableOfImage image) r) c = true) →
      ∃ u, SlotResolved { ended with
          cmd := { s.cmd with load := none, shadow := some (tableOfImage image), source := .memory }
          monitor := { s.monitor with
            candidate := none, settle := .idle
            override := s.monitor.override.filter fun n => (tableRecord (tableOfImage image) n).isSome } } u ∧
        exec (.loaderReadAnswer a) s = .next (settleOutputs s (respond l.seq .done 0 (raise .tableLoaded u))))

/-- R106, R111, R126: a load that ends with a table in which the active layout has another arrangement commits that record:
the target record is copied from the new table, the old record is the active one, the map is set to the plan of the two,
and the pending slot keeps its number. The commit finds the new table in force and the candidate and settle timer cleared;
TABLE_LOADED and the response DONE come with it. -/
def Obligations.NewArrangementIsCommitted : Prop :=
  ∀ (data : List Pixel) (f : InFlight) (rest : List InFlight) (l : TableLoad) (c : RecordCopy) (r : LayoutRecord)
    (s : State), Released s → AnswerIsNext (.ok data) f rest s → f.owner = .loader → s.cmd.load = some l →
    l.awaitingHead = false → l.toIssue = [] → l.inFlight = 1 → l.disturbed = false → l.readFailed = false →
    let image := (l.bytes ++ bytesOfPixels data).take l.length
    validate image = none → s.ctrl.active = some c → tableRecord (tableOfImage image) c.number = some r →
    sameArrangement (copyRecord (tableOfImage image) r) c = false →
    ∃ t v, exec (.loaderReadAnswer (.ok data)) s = .next t ∧
      Committed .commit (copyRecord (tableOfImage image) r) (some c)
        { s with
          dn := { s.dn with inFlight := rest }
          cmd := { s.cmd with load := none, shadow := some (tableOfImage image), source := .memory }
          ctrl := { s.ctrl with loadHold := false }
          monitor := { s.monitor with
            candidate := none, settle := .idle
            override := s.monitor.override.filter fun n => (tableRecord (tableOfImage image) n).isSome } } v ∧
      t = settleOutputs s (respond l.seq .done 0 (raise .tableLoaded v)) ∧
      (∀ tile, OnPanel tile → entryAt t.engine.map tile = planEntry (copyRecord (tableOfImage image) r) (some c) tile ∨
        ∃ b, entryAt t.engine.map tile = takenBy b (planEntry (copyRecord (tableOfImage image) r) (some c) tile)) ∧
      t.cmd = { s.cmd with load := none, shadow := some (tableOfImage image), source := .memory } ∧
      t.ctrl = { s.ctrl with
        loadHold := false, target := some (copyRecord (tableOfImage image) r), old := some c
        generation := s.ctrl.generation + 1, oldWrites := outstandingWrites s, drainKind := .commit
        state := if outstandingWrites s = [] then .relocating else .draining } ∧
      kindPending t.notice.set .transitionBegun = true ∧ kindPending t.notice.set .tableLoaded = true ∧
      t.notice.responseNext = some { seq := l.seq, result := .done, detail := 0 } ∧
      t.monitor.candidate = none ∧ t.monitor.settle = .idle ∧ t.monitor.fallback = s.monitor.fallback ∧
      t.frame = s.frame ∧ t.contexts = s.contexts ∧ t.boot = s.boot ∧ t.pins = s.pins


/-- R162, R166, R169, R170: the answers to the writes of the records. The notice and status writers go to CLEAN, or to DUE
where a change came since; a response write raises COMMAND_DONE; a counts write raises COUNTS_READY when it is answered OK.
A memory error counts one memory error and raises MEMORY_ERROR. Only a counts write that RESTART has overtaken raises
nothing and counts nothing, whatever its answer. A counts write that carries REPORTs does the same and answers them, as
`ReportIsAnsweredWithItsCounts` says. -/
def Obligations.RecordWriteIsAnswered : Prop :=
  ∀ (a : Answer) (f : InFlight) (rest : List InFlight) (s : State), Released s → AnswerIsNext a f rest s →
    let left := { s with dn := { s.dn with inFlight := rest } }
    let counted := fun u : State => if a = .memoryError then raise .memoryError (countEvent .memoryErrors 1 u) else u
    (f.owner = .record .notice → exec (.recordWriteAnswer a) s = .next (settleOutputs s (counted
      { left with notice := { s.notice with noticeWriter := match s.notice.noticeWriter with
        | .inFlight => .clean
        | .inFlightDue => .due
        | w => w } }))) ∧
    (f.owner = .record .status → exec (.recordWriteAnswer a) s = .next (settleOutputs s (counted
      { left with notice := { s.notice with statusWriter := match s.notice.statusWriter with
        | .inFlight => .clean
        | .inFlightDue => .due
        | w => w } }))) ∧
    (f.owner = .record .response → exec (.responseWriteAnswer a) s = .next (settleOutputs s (raise .commandDone (counted
      { left with notice := { s.notice with responseBusy := false } })))) ∧
    (∀ c, f.owner = .record .counts → s.notice.countsBusy = some c → c.overtaken = true →
      exec (.countsWriteAnswer a) s = .next (settleOutputs s
        { left with notice := { s.notice with countsBusy := none } })) ∧
    (∀ c, f.owner = .record .counts → s.notice.countsBusy = some c → c.overtaken = false → c.reports = [] →
      exec (.countsWriteAnswer a) s = .next (settleOutputs s
        (if a = .memoryError then counted { left with notice := { s.notice with countsBusy := none } }
        else raise .countsReady { left with notice := { s.notice with countsBusy := none } })))

/-- R159, R169: at the answer to the counts write that carries it, OK or a memory error, a REPORT's response DONE is formed;
of several REPORTs in one write the response of the last taken stands in the end (log 11, log 23). An OK answer raises
COUNTS_READY, a memory error is counted and raises MEMORY_ERROR, and no other kind is raised or removed. -/
def Obligations.ReportIsAnsweredWithItsCounts : Prop :=
  ∀ (a : Answer) (f : InFlight) (rest : List InFlight) (c : CountsFlight) (before : List Byte) (seq : Byte) (s : State),
    Released s → AnswerIsNext a f rest s → f.owner = .record .counts → s.notice.countsBusy = some c →
    c.overtaken = false → c.reports = before ++ [seq] →
    let raised := s.notice.set ||| kindBit (if a = .memoryError then .memoryError else .countsReady)
    exec (.countsWriteAnswer a) s = .next (settleOutputs s { s with
      dn := { s.dn with inFlight := rest }
      notice := { s.notice with
        countsBusy := none
        responseNext := some { seq := seq, result := .done, detail := 0 }
        counters := { s.notice.counters with
          memoryErrors := if a = .memoryError then addCount 1 s.notice.counters.memoryErrors
            else s.notice.counters.memoryErrors }
        set := raised
        noticeWriter := if raised = s.notice.set then s.notice.noticeWriter
          else writerChanged s.notice.noticeWriter } })

/-! ## The posture monitor (Chapter 5) -/

/-- R79: a poll round falls due, with nothing that runs due before it (the clock and the length of the frame: log 3 and
log 17). While the round before it has not ended it is not made and the next falls due one period later, the period read
at the last round begun (log 18); otherwise it begins with the poll of H1, whose frame is R179's, and reads the period,
5 ms while the shadow table is empty. -/
def Obligations.PollRoundFallsDue : Prop :=
  ∀ s : State, Released s → s.now ≤ s.monitor.roundDue → (∀ due ∈ runningDues s, s.monitor.roundDue ≤ due) →
    (∀ q, s.monitor.poll = some q → exec .pollRound s = .next (settleOutputs s { s with
      now := s.monitor.roundDue
      monitor := { s.monitor with roundDue := s.monitor.roundDue + s.monitor.period * 1000 } })) ∧
    (s.monitor.poll = none →
      let ms := s.cmd.shadow.elim 5 (·.pollMs)
      exec .pollRound s = .next (settleOutputs s { s with
        now := s.monitor.roundDue
        monitor := { s.monitor with
          period := ms, roundDue := s.monitor.roundDue + ms * 1000
          poll := some { hinge := .h1, frame := 0x59#8, frameEnd := s.monitor.roundDue + 20 } }
        pins := { s.pins with sensClk := .carrying, sensDat := .carrying } }))

/-- R79 to R85, R91, R179: when a poll ends, and what its valid reply or its miss does (clock: log 3; times: log 17; miss
run: log 12). A reply that begins within 1 ms of the poll frame ends the poll 32 bits later, and is judged; without one
the poll ends at that millisecond as a miss; at no later time is either taken. A valid reply joins the history, the oldest of four
leaving it; at the fourth in a row the hinge is PRESENT, and a PRESENT hinge takes the floor of the mean. A miss is
counted; at the third in a row a PRESENT hinge is LOST with its history empty. The other hinge is unchanged; HINGE_CHANGE
is raised as the edge mode allows; the fallback timer is IDLE once both hinges are PRESENT and starts from IDLE, outside
LOADING, once one is not; matching runs at a valid reply with both PRESENT outside LOADING, and otherwise candidate and
settle timer are kept. After H1 the poll of H2 begins, after H2 the round has ended. The rest of the notice unit and the
SPI lines are kept. -/
def Obligations.PollEndActsOnItsHinge : Prop :=
  ∀ (q : Poll) (s : State), Released s → s.monitor.poll = some q →
    let h := q.hinge
    let g := hingeOf h s.monitor
    let pollsOn := fun t : State =>
      (h = .h1 → t.monitor.poll = some { hinge := .h2, frame := 0x5B#8, frameEnd := t.now + 20 } ∧
        t.pins = { s.pins with sensClk := .carrying, sensDat := .carrying }) ∧
      (h = .h2 → t.monitor.poll = none ∧ t.pins = { s.pins with sensClk := .released, sensDat := .released })
    let both := fun t : State => t.monitor.h1.state = .present ∧ t.monitor.h2.state = .present
    let kept := fun t : State =>
      t = { s with monitor := t.monitor, notice := t.notice, pins := t.pins, now := t.now } ∧
      (∀ k, k ≠ h → hingeOf k t.monitor = hingeOf k s.monitor) ∧
      t.monitor.roundDue = s.monitor.roundDue ∧ t.monitor.period = s.monitor.period ∧
      t.monitor.override = s.monitor.override ∧
      NoticeKept { s.notice with
        counters := t.notice.counters, set := t.notice.set
        noticeWriter := if t.notice.set = s.notice.set then s.notice.noticeWriter
          else writerChanged s.notice.noticeWriter } t.notice ∧
      (let raises := (hingeOf h t.monitor).state ≠ g.state ∧
          ((hingeOf h t.monitor).state = .lost ∨ ∃ tb, s.cmd.shadow = some tb ∧ tb.hingeEdge = .both);
        (raises → t.notice.set = s.notice.set ||| kindBit .hingeChange) ∧ (¬ raises → t.notice.set = s.notice.set)) ∧
      ((hingeOf h t.monitor).state = g.state → t.monitor.fallback = s.monitor.fallback) ∧
      ((hingeOf h t.monitor).state ≠ g.state →
        (both t → t.monitor.fallback = .idle) ∧
        (∀ tb, ¬ both t → s.ctrl.state ≠ .loading → s.monitor.fallback = .idle → s.cmd.shadow = some tb →
          t.monitor.fallback = .running (t.now + tb.fallbackMs * 1000)) ∧
        (¬ both t → s.ctrl.state = .loading ∨ s.monitor.fallback ≠ .idle →
          t.monitor.fallback = s.monitor.fallback))
    let missed := fun t : State =>
      hingeOf h t.monitor = (if g.state = .present then
          if g.missRun + 1 < 3 then { g with missRun := g.missRun + 1 }
          else { g with state := .lost, validRun := 0, missRun := 3, history := [] }
        else { g with validRun := 0 }) ∧
      t.notice.counters = { s.notice.counters with misses := addCount 1 s.notice.counters.misses } ∧
      t.monitor.candidate = s.monitor.candidate ∧ t.monitor.settle = s.monitor.settle
    let answered := fun (a : Nat) (t : State) =>
      let angles := (g.history ++ [min 720 a]).drop (g.history.length + 1 - 4)
      hingeOf h t.monitor = (if g.state = .present then
          { g with missRun := 0, history := angles, filtered := angles.sum / angles.length }
        else if g.validRun + 1 < 4 then { g with validRun := g.validRun + 1, history := angles }
        else { state := .present, validRun := 4, missRun := 0, history := angles
               filtered := angles.sum / angles.length }) ∧
      t.notice.counters = { s.notice.counters with
        clamps := if 720 < a then addCount 1 s.notice.counters.clamps else s.notice.counters.clamps } ∧
      (both t → s.ctrl.state ≠ .loading →
        let matched := runMatching { t with monitor := { t.monitor with
          candidate := s.monitor.candidate, settle := s.monitor.settle } }
        t.monitor.candidate = matched.monitor.candidate ∧ t.monitor.settle = matched.monitor.settle) ∧
      (¬ both t ∨ s.ctrl.state = .loading →
        t.monitor.candidate = s.monitor.candidate ∧ t.monitor.settle = s.monitor.settle)
    (∀ start f,
      let ends := q.frameEnd + if start ≤ 1000 then start + 80 else 1000
      let valid := start ≤ 1000 ∧ f.b3 = f.b0 + f.b1 + f.b2 ∧
        f.b0.extractLsb' 0 7 = (if h = .h1 then 0x2C#7 else 0x2D#7) ∧ f.b2.getLsbD 7 = true
      (ends < s.now → exec (.sensorReply start f) s = .refused .outOfTimeOrder) ∧
      (s.now ≤ ends → (∀ due ∈ runningDues s, ends ≤ due) → ∃ t, exec (.sensorReply start f) s = .next t ∧
        t.now = ends ∧ pollsOn t ∧ kept t ∧
        (valid → answered (f.b1.toNat + 256 * (f.b2.extractLsb' 0 2).toNat) t) ∧ (¬ valid → missed t))) ∧
    (q.frameEnd + 1000 < s.now → exec .replyTimeout s = .refused .outOfTimeOrder) ∧
    (s.now ≤ q.frameEnd + 1000 → (∀ due ∈ runningDues s, q.frameEnd + 1000 ≤ due) → ∃ t, exec .replyTimeout s = .next t ∧
      t.now = q.frameEnd + 1000 ∧ pollsOn t ∧ kept t ∧ missed t)

/-- R85 to R88: matching, with both hinges PRESENT after LOADING. The candidate is the intended layout where its record's
windows, widened by the margin, hold both filtered angles; otherwise the first record in table order, of a number other
than 0, whose windows hold them; otherwise none. The settle timer is IDLE for no candidate and for the intended layout,
goes on for a layout it names, and otherwise starts the candidate's settle time afresh. -/
def Obligations.MatchingFindsTheCandidate : Prop :=
  ∀ (tb : Table) (s : State), s.monitor.h1.state = .present → s.monitor.h2.state = .present →
    s.ctrl.state ≠ .loading → s.cmd.shadow = some tb →
    let t := runMatching s
    let a1 := s.monitor.h1.filtered
    let a2 := s.monitor.h2.filtered
    let held := fun (m : Nat) (r : LayoutRecord) =>
      r.win1.lo - m ≤ a1 ∧ a1 ≤ min 720 (r.win1.hi + m) ∧ r.win2.lo - m ≤ a2 ∧ a2 ≤ min 720 (r.win2.hi + m)
    let found := fun r : LayoutRecord => r.number ≠ 0 ∧ r.win1.lo ≤ a1 ∧ a1 ≤ r.win1.hi ∧ r.win2.lo ≤ a2 ∧ a2 ≤ r.win2.hi
    let favoured := ∃ n r, intendedLayout s = some n ∧ n ≠ 0 ∧ tableRecord tb n = some r ∧ held tb.hysteresis r
    (favoured → t.monitor.candidate = intendedLayout s) ∧
    (¬ favoured →
      (∀ before r after, tb.records = before ++ r :: after → (∀ x ∈ before, ¬ found x) → found r →
        t.monitor.candidate = some r.number) ∧
      ((∀ r ∈ tb.records, ¬ found r) → t.monitor.candidate = none)) ∧
    (t.monitor.candidate = none ∨ t.monitor.candidate = intendedLayout s → t.monitor.settle = .idle) ∧
    (∀ n r, t.monitor.candidate = some n → intendedLayout s ≠ some n → tableRecord tb n = some r →
      let named := (∃ due, s.monitor.settle = .running n due) ∨ s.monitor.settle = .expired n
      (named → t.monitor.settle = s.monitor.settle) ∧
        (¬ named → t.monitor.settle = .running n (s.now + r.settleMs * 1000))) ∧
    t = { s with monitor := { s.monitor with candidate := t.monitor.candidate, settle := t.monitor.settle } }

/-- R89, R92, R103, R104, R106, R109: the monitor's timers reach their due times, in the order of the model's clock (log
3). The settle timer of layout n becomes EXPIRED, and with no FORCE layout n is requested. The fallback timer is SPENT, and
with no FORCE and an intended layout other than 0 layout 0 is requested and FALLBACK_TAKEN raised. A request in STEADY with
the load hold OFF commits another layout of the table, and is discarded for the active one and for one the table does not
hold. Under load hold it acts on the pending slot against the active number, in a transition against the target's. -/
def Obligations.MonitorTimersExpire : Prop :=
  ∀ (due : Nat) (s : State), Released s → s.now ≤ due → (∀ d ∈ runningDues s, due ≤ d) →
    let requested := fun (n : Nat) (u v : State) =>
      (s.ctrl.state = .steady → s.ctrl.loadHold = false →
        (activeNumber s = some n ∨ (∀ tb, s.cmd.shadow = some tb → tableRecord tb n = none) → v = u) ∧
        ∀ tb r, activeNumber s ≠ some n → s.cmd.shadow = some tb → tableRecord tb n = some r →
          Committed .commit (copyRecord tb r) s.ctrl.active u v) ∧
      (s.ctrl.state = .steady → s.ctrl.loadHold = true → v = slotTakes (activeNumber s) n u) ∧
      (inTransition s.ctrl.state = true → v = slotTakes (targetNumber s) n u) ∧ (s.ctrl.state = .loading → v = u)
    (∀ n, s.monitor.settle = .running n due →
      let expired := { s with now := due, monitor := { s.monitor with settle := .expired n } }
      (s.monitor.override ≠ none → exec .settleTimerExpiry s = .next (settleOutputs s expired)) ∧
      (s.monitor.override = none → ∃ v, requested n expired v ∧
        exec .settleTimerExpiry s = .next (settleOutputs s v))) ∧
    (s.monitor.fallback = .running due →
      let spent := { s with now := due, monitor := { s.monitor with fallback := .spent } }
      (s.monitor.override ≠ none ∨ intendedLayout s = none ∨ intendedLayout s = some 0 →
        exec .fallbackTimerExpiry s = .next (settleOutputs s spent)) ∧
      (∀ n, s.monitor.override = none → intendedLayout s = some n → n ≠ 0 → ∃ v, requested 0 spent v ∧
        exec .fallbackTimerExpiry s = .next (settleOutputs s (raise .fallbackTaken v))))

/-! ## Frames and the flip (Chapter 6) -/

/-- R113, R114, R115, R120, R121, R122, R169: a FRAME_START (the clock: log 3; report interval 0: log 15). In FLIP_WAIT the
flip is taken first, its transition counted and the pending slot resolved at this event (log 29), and the boundary counts
after it (log 14). The loss timer restarts with three nominal periods and the time is recorded; a LOST panel returns to PRESENT when the last
FRAME_START is less than two periods ago, raising PANEL_TIMING in edge mode BOTH; the frame count rises, or stays 0 with
report interval 0, and at the interval the counts are transferred: into a new counts write, or, where one waits or is
ready and not granted (log 30), added to its values, each sum capped at 65535, its REPORTs kept. The rest of the notice
unit is as the flip, where there is one, leaves it. -/
def Obligations.FrameStartIsCounted : Prop :=
  ∀ (elapsed : Nat) (s : State), Released s → (∀ due ∈ runningDues s, s.now + elapsed ≤ due) →
    let at_ := s.now + elapsed
    let period := s.cmd.shadow.elim 8333 (·.framePeriod)
    let N := s.cmd.shadow.elim 0 (·.report)
    let returns := s.frame.panel = .lost ∧ ∃ last, s.frame.lastStart = some last ∧ at_ - last < 2 * period
    ∃ u t, exec (.frameStart elapsed) s = .next t ∧
      (s.ctrl.state ≠ .flipWait → u = { s with now := at_ }) ∧
      (s.ctrl.state = .flipWait → SlotResolved (flipped { s with now := at_ }) u) ∧
      t = { u with frame := t.frame, notice := t.notice } ∧
      t.frame.lossTimer = some (at_ + 3 * period) ∧ t.frame.lastStart = some at_ ∧
      (returns → t.frame.panel = .present) ∧ (¬ returns → t.frame.panel = s.frame.panel) ∧
      NoticeKept { u.notice with
        counters := t.notice.counters, frameCount := t.notice.frameCount, countsNext := t.notice.countsNext
        set := t.notice.set
        noticeWriter := if t.notice.set = u.notice.set then u.notice.noticeWriter
          else writerChanged u.notice.noticeWriter } t.notice ∧
      (let raises := returns ∧ ∃ tb, s.cmd.shadow = some tb ∧ tb.panelEdge = .both;
        (raises → t.notice.set = u.notice.set ||| kindBit .panelTiming) ∧ (¬ raises → t.notice.set = u.notice.set)) ∧
      (N = 0 → t.notice.frameCount = 0 ∧ t.notice.counters = u.notice.counters ∧
        t.notice.countsNext = s.notice.countsNext) ∧
      (0 < N → s.notice.frameCount + 1 < N → t.notice.frameCount = s.notice.frameCount + 1 ∧
        t.notice.counters = u.notice.counters ∧ t.notice.countsNext = s.notice.countsNext) ∧
      (0 < N → N ≤ s.notice.frameCount + 1 → t.notice.frameCount = 0 ∧
        (∀ i, counterOf t.notice.counters i = { value := 0, saturated := false }) ∧
        (s.notice.countsNext = none →
          t.notice.countsNext = some { counters := u.notice.counters, reports := [] }) ∧
        ∀ w, s.notice.countsNext = some w → ∃ v, t.notice.countsNext = some v ∧ v.reports = w.reports ∧
          ∀ i, (counterOf v.counters i).value = min 65535 ((counterOf w.counters i).value +
              (counterOf u.notice.counters i).value) ∧
            ((counterOf v.counters i).saturated = true ↔ (counterOf w.counters i).saturated = true ∨
              (counterOf u.notice.counters i).saturated = true ∨
              65535 ≤ (counterOf w.counters i).value + (counterOf u.notice.counters i).value))
/-- R112, R113, R114, R115, R116: the flip in FLIP_WAIT, at a FRAME_START or as panel timing is lost (the clock: log 3).
SCAN_BANK names the other bank, the target record is the active one, PANEL_ENABLE is asserted and LAYOUT_ACTIVE raised.
With the slot empty the controller is STEADY; a number in the slot that the table holds is committed at once (log 29),
with the layout just made active as the old record. The completion test moves RELOCATING to FLIP_WAIT once every tile is
finished, both buffers are EMPTY and no request is held; with panel timing LOST the flip is taken at that event. -/
def Obligations.FlipExchangesTheBanks : Prop :=
  (∀ (c : Instr) (s : State), Released s → s.ctrl.state = .flipWait →
    (∃ elapsed, c = .frameStart elapsed ∧ ∀ due ∈ runningDues s, s.now + elapsed ≤ due) ∨
      (∃ due, c = .lossTimerExpiry ∧ s.frame.panel = .present ∧ s.frame.lossTimer = some due ∧
        ∀ d ∈ runningDues s, due ≤ d) →
    let turned := { s.ctrl with
      frontBank := otherBank s.ctrl.frontBank, active := s.ctrl.target, target := none, old := none
      panelEnable := true, state := .steady }
    ∃ t, exec c s = .next t ∧ kindPending t.notice.set .layoutActive = true ∧
      t = { s with ctrl := t.ctrl, engine := t.engine, frame := t.frame, notice := t.notice, now := t.now } ∧
      t.engine.hold = s.engine.hold ∧
      (s.ctrl.slot = none → t.ctrl = turned ∧ t.engine = s.engine) ∧
      (∀ n, s.ctrl.slot = some n → (∀ tb, s.cmd.shadow = some tb → tableRecord tb n = none) →
        t.ctrl = { turned with slot := none } ∧ t.engine = s.engine) ∧
      (∀ n tb r, s.ctrl.slot = some n → s.cmd.shadow = some tb → tableRecord tb n = some r →
        t.ctrl = { turned with
          slot := none, target := some (copyRecord tb r), old := s.ctrl.target, generation := s.ctrl.generation + 1
          oldWrites := outstandingWrites s, drainKind := .commit
          state := if outstandingWrites s = [] then .relocating else .draining } ∧
        kindPending t.notice.set .transitionBegun = true) ∧
      ∃ u v, u = { s with now := u.now, frame := u.frame, notice := u.notice } ∧ SlotResolved (flipped u) v ∧
        t.ctrl = v.ctrl ∧ t.engine = v.engine) ∧
  ∀ s : State,
    let complete := (∀ e ∈ s.engine.map, isFinished e = true) ∧ s.engine.tb0 = .empty ∧ s.engine.tb1 = .empty ∧
      s.engine.hold = []
    let waits := { s with ctrl := { s.ctrl with state := .flipWait } }
    (s.ctrl.state ≠ .relocating ∨ ¬ complete → completionTest s = s) ∧
    (s.ctrl.state = .relocating → complete → s.frame.panel = .present → completionTest s = waits) ∧
    (s.ctrl.state = .relocating → complete → s.frame.panel = .lost → SlotResolved (flipped waits) (completionTest s))

/-- R113, R120, R122: the loss timer reaches its due time (log 3): a PRESENT panel is LOST and PANEL_TIMING raised in
either edge mode, and in FLIP_WAIT the flip is taken at this event and the pending slot resolved (log 29); in LOST it has
no effect. -/
def Obligations.LossTimerExpires : Prop :=
  ∀ (due : Nat) (s : State), Released s → s.frame.lossTimer = some due → s.now ≤ due →
    (∀ d ∈ runningDues s, due ≤ d) →
    let ran := { s with now := due, frame := { s.frame with lossTimer := none } }
    let judged := raise .panelTiming { ran with frame := { s.frame with lossTimer := none, panel := .lost } }
    (s.frame.panel = .present → s.ctrl.state ≠ .flipWait →
      exec .lossTimerExpiry s = .next (settleOutputs s judged)) ∧
    (s.frame.panel = .present → s.ctrl.state = .flipWait → ∃ u, SlotResolved (flipped judged) u ∧
      exec .lossTimerExpiry s = .next (settleOutputs s u)) ∧
    (s.frame.panel = .lost → exec .lossTimerExpiry s = .next (settleOutputs s ran))
/-! ## The host's commands (Chapter 8) -/

/-- R153, R154: a command word whose sequence is the last taken one is only forwarded; a new one is taken, and PUBLISH,
FORCE, RELEASE and REPORT are answered BUSY in LOADING and while a load runs, PUBLISH outside STEADY too, an unknown code
BAD_COMMAND with the code as detail, with no other state changed. -/
def Obligations.CommandIsTakenOrTurnedAway : Prop :=
  ∀ (p : Port) (tag : Tag) (seq : Byte) (arg : BitVec 16) (s : State), Released s → TakesTag p tag s →
    let word := fun code : Byte => forwarded p (commandRequest tag seq code arg) s
    let answer := fun (code : Byte) (result : CommandResult) (detail : BitVec 16) =>
      settleOutputs s { word code with
        cmd := { s.cmd with lastSeq := seq }
        notice := { s.notice with responseNext := some { seq := seq, result := result, detail := detail } } }
    (seq = s.cmd.lastSeq →
      exec (.publish p tag seq arg) s = .next (settleOutputs s (word 0x01)) ∧
      exec (.force p tag seq arg) s = .next (settleOutputs s (word 0x02)) ∧
      exec (.release p tag seq arg) s = .next (settleOutputs s (word 0x03)) ∧
      exec (.report p tag seq arg) s = .next (settleOutputs s (word 0x04)) ∧
      exec (.restart p tag seq arg) s = .next (settleOutputs s (word 0x0F)) ∧
      ∀ code, code ∉ knownCodes → exec (.badCommand p tag seq code arg) s = .next (settleOutputs s (word code))) ∧
    (seq ≠ s.cmd.lastSeq →
      (∀ code, code ∉ knownCodes →
        exec (.badCommand p tag seq code arg) s = .next (answer code .badCommand (code.setWidth 16))) ∧
      (s.ctrl.state ≠ .steady ∨ s.cmd.load ≠ none →
        exec (.publish p tag seq arg) s = .next (answer 0x01 .busy 0)) ∧
      (s.ctrl.state = .loading ∨ s.cmd.load ≠ none →
        exec (.force p tag seq arg) s = .next (answer 0x02 .busy 0) ∧
        exec (.release p tag seq arg) s = .next (answer 0x03 .busy 0) ∧
        exec (.report p tag seq arg) s = .next (answer 0x04 .busy 0)))

/-- R104, R155: a PUBLISH taken in STEADY with no load running begins a load: the load hold is ON, the marks are clear and
the first read, of 4 pixels at 0x0400_1000, is to be issued. -/
def Obligations.PublishBeginsALoad : Prop :=
  ∀ (p : Port) (tag : Tag) (seq : Byte) (arg : BitVec 16) (s : State), Released s → TakesTag p tag s →
    seq ≠ s.cmd.lastSeq → s.ctrl.state = .steady → s.cmd.load = none →
    exec (.publish p tag seq arg) s = .next (settleOutputs s { forwarded p (commandRequest tag seq 0x01 arg) s with
      cmd := { s.cmd with
        lastSeq := seq
        load := some { seq := seq, disturbed := false, readFailed := false, abandoned := false, awaitingHead := true
                       bytes := [], length := 0, toIssue := [(0x04001000, 4)], inFlight := 0 } }
      ctrl := { s.ctrl with loadHold := true } })

/-- R93, R103, R109, R158: a FORCE taken outside LOADING with no load running. An argument above 15, or one the table holds
no record for, is answered BAD_ARGUMENT with the argument and changes no other state. In a transition any other sets the
override, acts on the pending slot and is answered DONE; in STEADY it sets the override, is answered DONE, and commits the
layout where another is active; for the active one the request is discarded. -/
def Obligations.ForceIsTaken : Prop :=
  ∀ (p : Port) (tag : Tag) (seq : Byte) (arg : BitVec 16) (s : State), Released s → TakesTag p tag s →
    seq ≠ s.cmd.lastSeq → s.ctrl.state ≠ .loading → s.cmd.load = none →
    let n := arg.toNat
    let taken := { forwarded p (commandRequest tag seq 0x02 arg) s with cmd := { s.cmd with lastSeq := seq } }
    let holds := fun (tb : Table) (r : LayoutRecord) =>
      n ≤ 15 ∧ s.cmd.shadow = some tb ∧ tableRecord tb n = some r
    ((∀ tb r, ¬ holds tb r) → exec (.force p tag seq arg) s = .next (settleOutputs s { taken with
      notice := { s.notice with responseNext := some { seq := seq, result := .badArgument, detail := arg } } })) ∧
    ∀ tb r, holds tb r →
      (inTransition s.ctrl.state = true → exec (.force p tag seq arg) s = .next (settleOutputs s { taken with
        monitor := { s.monitor with override := some n }
        ctrl := { s.ctrl with slot := if targetNumber s = some n then none else some n }
        notice := { s.notice with
          responseNext := some { seq := seq, result := .done, detail := 0 }
          counters := if targetNumber s ≠ some n ∧ s.ctrl.slot ≠ none ∧ s.ctrl.slot ≠ some n
            then { s.notice.counters with replacements := addCount 1 s.notice.counters.replacements }
            else s.notice.counters } })) ∧
      (s.ctrl.state = .steady → s.ctrl.loadHold = false → activeNumber s = some n →
        exec (.force p tag seq arg) s = .next (settleOutputs s { taken with
          monitor := { s.monitor with override := some n }
          notice := { s.notice with responseNext := some { seq := seq, result := .done, detail := 0 } } })) ∧
      (s.ctrl.state = .steady → s.ctrl.loadHold = false → activeNumber s ≠ some n →
        ∃ v, Committed .commit (copyRecord tb r) s.ctrl.active
            { taken with monitor := { s.monitor with override := some n } } v ∧
          exec (.force p tag seq arg) s = .next (settleOutputs s { v with
            notice := { v.notice with responseNext := some { seq := seq, result := .done, detail := 0 } } }))

/-- R94, R158: a RELEASE taken outside LOADING with no load running clears the override and is answered DONE; a candidate
other than the intended layout starts its whole settle time. -/
def Obligations.ReleaseIsTaken : Prop :=
  ∀ (p : Port) (tag : Tag) (seq : Byte) (arg : BitVec 16) (s : State), Released s → TakesTag p tag s →
    seq ≠ s.cmd.lastSeq → s.ctrl.state ≠ .loading → s.cmd.load = none →
    let answered := fun timer : SettleTimer =>
      settleOutputs s { forwarded p (commandRequest tag seq 0x03 arg) s with
        cmd := { s.cmd with lastSeq := seq }
        monitor := { s.monitor with override := none, settle := timer }
        notice := { s.notice with responseNext := some { seq := seq, result := .done, detail := 0 } } }
    (s.monitor.candidate = none ∨ s.monitor.candidate = intendedLayout s →
      exec (.release p tag seq arg) s = .next (answered s.monitor.settle)) ∧
    ∀ n tb r, s.monitor.candidate = some n → intendedLayout s ≠ some n → s.cmd.shadow = some tb →
      tableRecord tb n = some r →
      exec (.release p tag seq arg) s = .next (answered (.running n (s.now + r.settleMs * 1000)))

/-- R159, R169: a REPORT taken outside LOADING with no load running transfers the counts: the twelve counters, their flags
and the frame count are 0, and the values stand in a counts write with the REPORT's sequence, added to those of one that
waits, each sum capped at 65535. One that is ready and not granted is treated as one that waits, which is the model's own
choice (log 30). No response is formed yet. -/
def Obligations.ReportTransfersTheCounts : Prop :=
  ∀ (p : Port) (tag : Tag) (seq : Byte) (arg : BitVec 16) (s : State), Released s → TakesTag p tag s →
    seq ≠ s.cmd.lastSeq → s.ctrl.state ≠ .loading → s.cmd.load = none →
    ∃ t, exec (.report p tag seq arg) s = .next t ∧
      t = { forwarded p (commandRequest tag seq 0x04 arg) s with
            cmd := { s.cmd with lastSeq := seq }, notice := t.notice } ∧
      (∀ i, counterOf t.notice.counters i = { value := 0, saturated := false }) ∧ t.notice.frameCount = 0 ∧
      t.notice.set = s.notice.set ∧ t.notice.responseNext = s.notice.responseNext ∧
      t.notice.countsBusy = s.notice.countsBusy ∧
      (s.notice.countsNext = none →
        t.notice.countsNext = some { counters := s.notice.counters, reports := [seq] }) ∧
      ∀ w, s.notice.countsNext = some w → ∃ v, t.notice.countsNext = some v ∧ v.reports = w.reports ++ [seq] ∧
        ∀ i, (counterOf v.counters i).value = min 65535 ((counterOf w.counters i).value +
            (counterOf s.notice.counters i).value) ∧
          ((counterOf v.counters i).saturated = true ↔ (counterOf w.counters i).saturated = true ∨
            (counterOf s.notice.counters i).saturated = true ∨
            65535 ≤ (counterOf w.counters i).value + (counterOf s.notice.counters i).value)

/-- R2, R19, R65, R98, R118, R124, R151, R152, R160, R161, R166, R170: a RESTART is taken. In every state a request in an intake
place is answered ABORTED at once, its tag outstanding until that is sent (log 10), its context discarded, and the place is
EMPTY; one in WAIT_TAG whose tag is outstanding stays there with the mark, and the context of its tag is kept. The
outstanding tags are otherwise unchanged. Every held request is answered ABORTED and its context gone; an ABORTED response to a READ carries count zero pixels, and a port gets
no response but these. The path lists go on, the monitor starts afresh with its filtered angles kept, the counters are 0
and DONE is formed. In LOADING the controller keeps its values, the boot loader goes on, and the counts writes are left as
they are, of which LOADING has none (R154, R169). Outside it a load with reads in flight runs on, abandoned, with their
count, and one with none is gone. The promotion queue is empty; a buffer with requests unanswered discards their answers, a
DISCARDING one keeps its count, and any other is EMPTY. So the boot transition is committed with the shadow table in force,
no surface write aborted here among its old writes (log 25): in the restart drain nothing is taken, and with no old write
the EMPTY buffers take tiles at once. TRANSITION_BEGUN alone is pending, and DONE is behind every record write that was
ready before (log 11). A counts write that waits is discarded, and so is one that is ready and not granted, which is the
model's own choice (log 30); one in flight is marked as overtaken and its REPORTs lose their responses. The front bank,
PANEL_ENABLE, the frame timing monitor, DN, the table and its source are kept. -/
def Obligations.RestartRebuildsLayoutZero : Prop :=
  ∀ (p : Port) (tag : Tag) (seq : Byte) (arg : BitVec 16) (s : State), Released s → TakesTag p tag s →
    seq ≠ s.cmd.lastSeq →
    let aborts := fun t : State =>
      t.engine.hold = [] ∧
      (∀ q, (portOf q t).place = (match (portOf q s).place with
          | .waitTag w _ => if tagOutstanding q w.tag s then .waitTag w true else .empty
          | _ => .empty) ∧
        (portOf q t).path = (portOf q (forwarded p (commandRequest tag seq 0x0F arg) s)).path ∧
        (portOf q t).sent = (portOf q s).sent ∧
        (portOf q t).tags = (portOf q (forwarded p (commandRequest tag seq 0x0F arg) s)).tags ++
          (match placeRequest (portOf q s).place with
            | some w => if tagOutstanding q w.tag s then [] else [w.tag]
            | none => []) ∧
        ∃ gs, (portOf q t).ready = (portOf q s).ready ++ gs ∧ gs.length ≤ 1 ∧ ∀ g ∈ gs, ∀ rr ∈ g,
          (∃ w, placeRequest (portOf q s).place = some w ∧ (portOf q t).place = .empty ∧
            rr = { response := abortedResponse w.tag (bodyKind w.body) (bodyCount w.body), origin := .aborted }) ∨
          ∃ k c, (q, k) ∈ s.engine.hold ∧ contextOf (q, k) s = some c ∧
            rr = { response := abortedResponse k c.kind c.count, origin := .aborted }) ∧
      (∀ q w, placeRequest (portOf q s).place = some w → (portOf q t).place = .empty →
        tagOutstanding q w.tag t = true ∧ ∃ g ∈ (portOf q t).ready, ∃ rr ∈ g,
          rr.response = abortedResponse w.tag (bodyKind w.body) (bodyCount w.body)) ∧
      (∀ q k c, (q, k) ∈ s.engine.hold → contextOf (q, k) s = some c →
        ∃ g ∈ (portOf q t).ready, ∃ rr ∈ g, rr.response = abortedResponse k c.kind c.count) ∧
      ∀ c, c ∈ t.contexts ↔ c ∈ s.contexts ∧ (c.port, c.tag) ∉ s.engine.hold ∧
        ∀ w, placeRequest (portOf c.port s).place = some w → w.tag = c.tag → (portOf c.port t).place = .waitTag w true
    let afresh := fun t : State =>
      (∀ h, hingeOf h t.monitor = { state := .unknown, validRun := 0, missRun := 0, history := []
                                    filtered := (hingeOf h s.monitor).filtered }) ∧
      t.monitor.candidate = none ∧ t.monitor.settle = .idle ∧ t.monitor.override = none ∧
      t.monitor.poll = s.monitor.poll ∧ t.monitor.roundDue = s.monitor.roundDue ∧
      t.monitor.period = s.monitor.period ∧ t.notice.frameCount = 0 ∧
      (∀ i, counterOf t.notice.counters i = { value := 0, saturated := false }) ∧
      t.notice.responseNext = some { seq := seq, result := .done, detail := 0 } ∧
      t.notice.hostWrites = s.notice.hostWrites ∧ t.notice.responseBusy = s.notice.responseBusy ∧
      t.dn = s.dn ∧ t.frame = s.frame ∧ t.boot = s.boot ∧ t.pins = s.pins ∧ t.now = s.now ∧
      t.freeUses = s.freeUses ∧ t.pending = s.pending ∧
      t.cmd.lastSeq = seq ∧ t.cmd.shadow = s.cmd.shadow ∧ t.cmd.source = s.cmd.source
    (s.ctrl.state = .loading → ∃ t, exec (.restart p tag seq arg) s = .next t ∧ aborts t ∧ afresh t ∧
      t.ctrl = s.ctrl ∧ t.engine = { s.engine with hold := [] } ∧ t.monitor.fallback = .idle ∧ t.notice.set = 0 ∧
      t.notice.noticeWriter = (if s.notice.set = 0 then s.notice.noticeWriter
        else writerChanged s.notice.noticeWriter) ∧
      t.cmd.load = s.cmd.load ∧ t.notice.countsNext = s.notice.countsNext ∧ t.notice.countsBusy = s.notice.countsBusy) ∧
    let stopped := fun b => match bufferOf b s.engine with
      | .empty => .empty
      | .reading u => if u.answered < u.issued then .discarding (u.issued - u.answered) else .empty
      | .writing w => if w.answered < w.issued then .discarding (w.issued - w.answered) else .empty
      | .discarding n => .discarding n
    ∀ tb r, s.ctrl.state ≠ .loading → s.cmd.shadow = some tb → tableRecord tb 0 = some r →
    ∃ t map, exec (.restart p tag seq arg) s = .next t ∧ aborts t ∧ afresh t ∧
      (let engine := { s.engine with
         hold := [], promotion := [], map := map, cursor := 0, tb0 := stopped .tb0, tb1 := stopped .tb1 }
       map.length = 4860 ∧ (∀ tile, OnPanel tile → entryAt map tile = planEntry (copyRecord tb r) none tile) ∧
       t.engine = (takeTiles { t with engine := engine }).engine ∧ (t.ctrl.oldWrites ≠ [] → t.engine = engine)) ∧
      t.engine.promotion = [] ∧ t.engine.lastIssuer = s.engine.lastIssuer ∧
      (∀ tile, OnPanel tile → entryAt t.engine.map tile = planEntry (copyRecord tb r) none tile ∨
        ∃ b, entryAt t.engine.map tile = takenBy b (planEntry (copyRecord tb r) none tile)) ∧
      t.monitor.fallback = .running (s.now + tb.fallbackMs * 1000) ∧
      t.ctrl.slot = none ∧ t.ctrl.loadHold = false ∧ t.ctrl.active = none ∧ t.ctrl.old = none ∧
      t.ctrl.target = some (copyRecord tb r) ∧ t.ctrl.generation = s.ctrl.generation + 1 ∧
      t.ctrl.oldWrites = outstandingWrites t ∧ t.ctrl.frontBank = s.ctrl.frontBank ∧
      t.ctrl.panelEnable = s.ctrl.panelEnable ∧
      (t.ctrl.oldWrites = [] → t.ctrl.state = .relocating) ∧
      (t.ctrl.oldWrites ≠ [] → t.ctrl.state = .draining ∧ t.ctrl.drainKind = .restart) ∧
      (s.cmd.load = none → t.cmd.load = none) ∧
      (∀ l, s.cmd.load = some l →
        (l.inFlight = 0 → t.cmd.load = none) ∧
        (l.inFlight ≠ 0 → t.cmd.load = some { l with abandoned := true, toIssue := [] })) ∧
      t.notice.set = kindBit .transitionBegun ∧ t.notice.noticeWriter = writerChanged s.notice.noticeWriter ∧
      t.notice.countsNext = none ∧
      t.notice.countsBusy = s.notice.countsBusy.map (fun _ => { reports := [], overtaken := true }) ∧
      (s.notice.responseBusy = false → ∃ before last, t.notice.readyQueue = before ++ [last] ∧
        RecordWriter.response ∈ last ∧ ∀ g ∈ before, RecordWriter.response ∉ g) ∧
      ∀ b n, stopped b = .discarding n → bufferOf b t.engine = .discarding n


/-! ## Start-up (Chapter 10) -/

/-- R172, R173: the ends of the boot reads. After the head, where one of FORMAT checks 1 to 3 fails the loader enters
CHECK with the 16 bytes held; otherwise it enters READ_BODY and begins one transaction at offset 16 of exactly length − 16
bytes. After the body its bytes, as many as were asked for, are appended to the head and the loader enters CHECK. With no
transaction open SPI_CS_N is high and SPI_CLK low. -/
def Obligations.BootReadsEnd : Prop :=
  (∀ (bytes : List Byte) (s : State), Released s → s.boot.state = .readHead → bytes.length = 16 →
    ∃ t, exec (.bootHeadReadEnd bytes) s = .next t ∧
      t = settleOutputs s { s with boot := t.boot, pins := t.pins, freeUses := t.freeUses } ∧ t.boot.bytes = bytes ∧
      t.boot.length = some (bytes[2]!.toNat + 256 * bytes[3]!.toNat) ∧
      t.pins.sensClk = s.pins.sensClk ∧ t.pins.sensDat = s.pins.sensDat ∧ t.pins.resetAsserted = false ∧
      (formatHeadFailure bytes ≠ none → t.boot.state = .check ∧ t.boot.spi = none ∧
        t.pins.spiCsN = .driven true ∧ t.pins.spiClk = .driven false) ∧
      (formatHeadFailure bytes = none → t.boot.state = .readBody ∧ t.pins.spiCsN = .driven false ∧
        t.boot.spi = some { sent := [0x03#8, 0#8, 0#8, 0x10#8]
                            count := bytes[2]!.toNat + 256 * bytes[3]!.toNat - 16 })) ∧
    ∀ (bytes : List Byte) (q : SpiRead) (s : State), Released s → s.boot.state = .readBody → s.boot.spi = some q →
      bytes.length = q.count →
      ∃ t, exec (.bootBodyReadEnd bytes) s = .next t ∧
        t = settleOutputs s { s with boot := t.boot, pins := t.pins, freeUses := t.freeUses } ∧
        t.boot = { s.boot with state := .check, bytes := s.boot.bytes ++ bytes, spi := none } ∧
        t.pins.spiCsN = .driven true ∧ t.pins.spiClk = .driven false ∧
        t.pins.sensClk = s.pins.sensClk ∧ t.pins.sensDat = s.pins.sensDat ∧ t.pins.resetAsserted = false

/-- R117, R126, R174: the end of CHECK. The valid image becomes the shadow table with source NVM and TABLE_LOADED is raised,
or the built-in table with source BUILT_IN and TABLE_REJECTED; the boot commit makes layout 0 of that table the target,
with no old record, and sets the map to its plan. A surface request waiting in WAIT_TABLE, of either port first (log 21), then goes on as if it were presented
now, and is received with the new generation under that layout in the back bank. The fallback timer runs where a hinge is
not PRESENT; the loader is FINISHED. -/
def Obligations.BootCheckEnds : Prop :=
  ∀ (first : Port) (r : LayoutRecord) (s : State), Released s → s.boot.state = .check → WaitsRight s →
    outstandingWrites s = [] →
    let valid := validate s.boot.bytes = none
    let goesOn := fun (p : Port) (u v : State) =>
      (∀ q, (portOf p s).place = .waitTable q →
        exec (.requestPresent p q) (setPlace p .empty u) = .next (settleOutputs (setPlace p .empty u) v)) ∧
      ((∀ q, (portOf p s).place ≠ .waitTable q) → v = u)
    ∃ tb, (valid → tb = tableOfImage s.boot.bytes) ∧ (¬ valid → tb = builtInTable) ∧
      (tableRecord tb 0 = some r → ∃ u v w t, exec (.bootCheckEnd first) s = .next t ∧
        (valid → Committed s.ctrl.drainKind (copyRecord tb r) none
          (raise .tableLoaded { s with cmd := { s.cmd with shadow := some tb, source := .nvm } }) u) ∧
        (¬ valid → Committed s.ctrl.drainKind (copyRecord tb r) none
          (raise .tableRejected { s with cmd := { s.cmd with shadow := some tb, source := .builtIn } }) u) ∧
        u = { s with cmd := u.cmd, ctrl := u.ctrl, engine := u.engine, notice := u.notice } ∧
        u.cmd = { s.cmd with shadow := some tb, source := u.cmd.source } ∧
        (valid → u.cmd.source = .nvm ∧ kindPending u.notice.set .tableLoaded = true) ∧
        (¬ valid → u.cmd.source = .builtIn ∧ kindPending u.notice.set .tableRejected = true) ∧
        u.ctrl = { s.ctrl with
          state := .relocating, generation := s.ctrl.generation + 1, target := some (copyRecord tb r), old := none
          oldWrites := [] } ∧
        kindPending u.notice.set .transitionBegun = true ∧
        (∀ tile, OnPanel tile → entryAt u.engine.map tile = planEntry (copyRecord tb r) none tile ∨
          ∃ b, entryAt u.engine.map tile = takenBy b (planEntry (copyRecord tb r) none tile)) ∧
        u.engine.hold = s.engine.hold ∧ u.engine.lastIssuer = s.engine.lastIssuer ∧
        goesOn first u v ∧ goesOn (otherPort first) v w ∧
        t = settleOutputs s { w with
          monitor := { s.monitor with fallback := t.monitor.fallback }
          boot := { s.boot with state := .finished, bytes := [] } } ∧
        t.ctrl = u.ctrl ∧ t.cmd = u.cmd ∧
        (∀ p q k, (portOf p s).place = .waitTable q → admittedWindow q = some (.surface k) →
          (portOf p t).tags = (portOf p s).tags ++ [q.tag] ∧ (∀ x, (portOf p t).place ≠ .waitTable x) ∧
          makeContext p (s.ctrl.generation + 1) (copyRecord tb r) (otherBank s.ctrl.frontBank) (snapshotOf (some tb) k) k q
            ∈ t.contexts) ∧
        (s.monitor.h1.state = .present ∧ s.monitor.h2.state = .present → t.monitor.fallback = .idle) ∧
        (¬ (s.monitor.h1.state = .present ∧ s.monitor.h2.state = .present) → s.monitor.fallback = .idle →
          t.monitor.fallback = .running (s.now + tb.fallbackMs * 1000)))

/-! ## Arithmetic (Chapters 2, 3, 4, 7 and 8) -/

/-- R67, R68, R69, R70: the gain code by the formula, and in the properties R69 draws from it. The distance of a column is
counted from the boundary before the centre column of the hinge, 1080 of H1 and 2160 of H2, and a column lies in a band
where its distance is less than the half-width; the band is the columns from the centre less the half-width to the one
before the centre plus it. A column inside the band of a hinge has the code at its distance from that hinge, a column in no
band has code 0. -/
def Obligations.GainCodeFollowsTheCurve : Prop :=
  (∀ P Hd d : Nat, 1 ≤ Hd →
    gainAt P Hd d = P * (2 * Hd - d % Hd) / (2 * Hd * 2 ^ (d / Hd)) ∧
    gainAt P Hd 0 = P ∧ (∀ k, gainAt P Hd (k * Hd) = P / 2 ^ k) ∧
    (∀ k, gainAt P Hd (k * Hd + (Hd - 1)) = P * (Hd + 1) / (2 * Hd * 2 ^ k)) ∧
    gainAt P Hd (d + 1) ≤ gainAt P Hd d ∧ gainAt P Hd d ≤ P ∧
    (2 * P < 2 ^ (d / Hd) → gainAt P Hd d = 0) ∧ gainAt P 1 d = P / 2 ^ d ∧ gainAt 0 Hd d = 0) ∧
  (∀ centre x, (centre ≤ x → creaseDistance centre x = x - centre) ∧
    (x < centre → creaseDistance centre x = centre - 1 - x)) ∧
  (∀ (c : CreaseContext) (x : Nat),
    (inBand .h1 c x = true ↔ creaseDistance 1080 x < c.band) ∧ (inBand .h2 c x = true ↔ creaseDistance 2160 x < c.band) ∧
    (inBand .h1 c x = true ↔ 1080 ≤ x + c.band ∧ x < 1080 + c.band) ∧
    (inBand .h2 c x = true ↔ 2160 ≤ x + c.band ∧ x < 2160 + c.band)) ∧
  (∀ (rc : RecordCopy) (c : CreaseContext) (x : Nat), rc.crease1 = some c → inBand .h1 c x = true →
    gainCode rc x = gainAt c.peak c.half (creaseDistance 1080 x)) ∧
  (∀ (rc : RecordCopy) (c : CreaseContext) (x : Nat), rc.crease2 = some c → inBand .h2 c x = true →
    (∀ b, rc.crease1 = some b → inBand .h1 b x = false) → gainCode rc x = gainAt c.peak c.half (creaseDistance 2160 x)) ∧
  ∀ (rc : RecordCopy) (x : Nat), (∀ c, rc.crease1 = some c → inBand .h1 c x = false) →
    (∀ c, rc.crease2 = some c → inBand .h2 c x = false) → gainCode rc x = 0


/-- R71, R73, R76: the write path and the rescale of a channel by their formulas, rounded to the nearest and clamped at 255.
They are applied to the blue, green and red bytes of a pixel, and alpha is kept. A channel keeps its value at gain code 0
and in a move between equal codes, a forwarded write goes out as it was presented, and a move to code 0 gives back exactly
the value first presented, where the write did not clamp. -/
def Obligations.CreaseArithmeticIsExact : Prop :=
  (∀ (c : Nat) (v : Byte), (liftChannel c v).toNat = min 255 ((v.toNat * (256 + c) + 128) / 256)) ∧
    (∀ (cs cd : Nat) (v : Byte),
      (rescaleChannel cs cd v).toNat = min 255 ((v.toNat * (256 + cd) + (256 + cs) / 2) / (256 + cs))) ∧
    (∀ (c cs cd : Nat) (p : Pixel),
      (∀ i, i < 3 →
        (creaseWrite c p).extractLsb' (8 * i) 8 = liftChannel c (p.extractLsb' (8 * i) 8) ∧
        (creaseRescale cs cd p).extractLsb' (8 * i) 8 = rescaleChannel cs cd (p.extractLsb' (8 * i) 8)) ∧
      (creaseWrite c p).extractLsb' 24 8 = p.extractLsb' 24 8 ∧
      (creaseRescale cs cd p).extractLsb' 24 8 = p.extractLsb' 24 8) ∧
    (∀ v : Byte, liftChannel 0 v = v) ∧ (∀ (c : Nat) (v : Byte), rescaleChannel c c v = v) ∧
    (∀ (c : Nat) (v : Byte), c ≤ 255 → (v.toNat * (256 + c) + 128) / 256 ≤ 255 →
      rescaleChannel c 0 (liftChannel c v) = v) ∧
    ∀ (p : Port) (r : Request) (es : List PathEntry) (s : State), (portOf p s).path = .forward r :: es →
      ∃ i, pathIssue p s = some i ∧ i.sent.request.body = r.body
/-- R54, R55, R56, R128: the placement of a pixel is that of its tile and of its offset within the tile together; under a
pane that lies within the panel it falls in the pane's physical rectangle, and its address in the panel image of its
bank. -/
def Obligations.PixelsArePlacedWithTheirTiles : Prop :=
  ∀ (p : Pane) (q : LogicalPixel) (b : Bank), paneCovers p (q.x / 40) (q.y / 40) = true →
    let tile := placeTile p (q.x / 40) (q.y / 40)
    let off := placeOffset p (q.x % 40) (q.y % 40)
    let at_ := placePixel p q
    at_ = { x := 40 * tile.col + off.1, y := 40 * tile.row + off.2 } ∧ off.1 < 40 ∧ off.2 < 40 ∧
    (PaneInside p → paneOwns p (tileOfPixel at_) = true ∧ at_.x ≤ 3239 ∧ at_.y ≤ 2399 ∧
      pixelAddress b at_ = bankBase b + (at_.y * 3240 + at_.x) * 4 ∧
      pixelAddress b at_ ≤ bankBase b + 31103996)

/-- R45, R47, R48, R49, R52, R53, R57, R58, R60, R61, R62, R64: what a context holds, under a layout whose panes lie within
the panel. Request pixel i takes part for pane j where it lies within the surface as the table gives it, the pane covers
it and, for a WRITE, it is unmasked or, for a READ, no earlier pane covers it. Each position of each fragment carries such
a pixel of its pane at the address the pane places it, a WRITE's word with the gain of its column; and each such pixel
stands in a fragment, as its pixels follow one another in one row. A fragment has 1 to 64 pixels, all of them in one row
of the panel image of the bank of its reception, and goes on as long as the next request pixel follows its last. The
fragments stand in the order of their first request pixels, and of those in pane order; those of one pane are apart. The
tiles are those of the fragments' addresses, each at its first appearance (within one fragment: log 13). The pixel map of
a READ names the fragment and the position of each pixel that takes part, and ZERO for every other. The pixels counted as
dropped are exactly the unmasked ones that no pane takes. -/
def Obligations.FragmentsStayInTheirBank : Prop :=
  ∀ (p : Port) (gen : BitVec 16) (rc : RecordCopy) (b : Bank) (tb : Option Table) (k : Nat) (r : Request),
    PanesRight rc.panes →
    let c := makeContext p gen rc b (snapshotOf tb k) k r
    let index := fun i => (r.address.toNat - (0x10000000 + k * 0x04000000)) / 4 + i
    let lies := fun (i : Nat) (q : LogicalPixel) => ∃ t, tb = some t ∧
      q.x = index i % (tableSurface t k).pitch ∧ q.y = index i / (tableSurface t k).pitch ∧
      q.x < (tableSurface t k).width ∧ q.y < (tableSurface t k).height
    let covers := fun (pane : Pane) (q : LogicalPixel) =>
      pane.surface = k ∧ paneCovers pane (q.x / 40) (q.y / 40) = true
    let written := fun (i : Nat) (w : Pixel) =>
      ∃ px, r.body = .write px ∧ px[i]? = some { word := w, mask := .write }
    let takes := fun (i j : Nat) (at_ : PanelPixel) => ∃ q pane,
      lies i q ∧ rc.panes[j]? = some pane ∧ covers pane q ∧ at_ = placePixel pane q ∧
      ((∃ w, written i w) ∨
        (∃ n, r.body = .read n ∧ i < n) ∧ ∀ m x, m < j → rc.panes[m]? = some x → ¬ covers x q)
    let carries := fun (f : Fragment) (n i : Nat) (at_ : PanelPixel) =>
      n < f.count ∧ i = f.first + (if f.descending then f.count - 1 - n else n) ∧
      f.address + 4 * n = pixelAddress b at_ ∧
      ∀ w, written i w → f.data[n]? = some (creaseWrite (gainCode rc at_.x) w)
    let row := fun a => (a - bankBase b) / 12960
    let starts := fun f : Fragment => f.address + (if f.descending then 4 * (f.count - 1) else 0)
    let ends := fun f : Fragment => f.address + (if f.descending then 0 else 4 * (f.count - 1))
    let tileAt := fun a : Nat =>
      ({ bank := b, tile := { col := (a - bankBase b) / 4 % 3240 / 40, row := (a - bankBase b) / 4 / 3240 / 40 } } : BankTile)
    c = { c with
      port := p, tag := r.tag, kind := bodyKind r.body, count := bodyCount r.body, generation := gen, record := rc
      bank := b, snapshot := snapshotOf tb k } ∧
    (∀ f ∈ c.fragments, 1 ≤ f.count ∧ f.count ≤ 64 ∧ f.address % 4 = 0 ∧ bankBase b ≤ f.address ∧
      f.address + 4 * f.count ≤ bankBase b + 31104000 ∧ row (starts f) = row (ends f) ∧ f.state = .notIssued ∧
      (f.descending = true → 2 ≤ f.count) ∧ f.data.length = if bodyKind r.body = .write then f.count else 0) ∧
    (∀ f ∈ c.fragments, ∀ n, n < f.count → ∃ i at_, takes i f.pane at_ ∧ carries f n i at_) ∧
    (∀ i j at_, takes i j at_ → ∃ f ∈ c.fragments, f.pane = j ∧ ∃ n, carries f n i at_) ∧
    c.fragments.Pairwise (fun f g => f.first ≤ g.first ∧ (f.first = g.first → f.pane < g.pane) ∧
      (f.pane = g.pane → f.first + f.count ≤ g.first)) ∧
    (∀ f ∈ c.fragments, ∀ g ∈ c.fragments, f.pane = g.pane → f.first + f.count = g.first → f.count < 64 →
      row (ends f) = row (starts g) →
      (starts g = ends f + 4 → f.descending = true) ∧
      (starts g + 4 = ends f → f.descending = false ∧ 2 ≤ f.count)) ∧
    (c.tiles = dropRepeats (c.fragments.flatMap fun f => (List.range f.count).map fun n =>
        tileAt (f.address + 4 * (if f.descending then f.count - 1 - n else n))) ∧
      c.tiles.Nodup ∧ ∀ t, t ∈ c.tiles ↔ t.bank = b ∧ ∃ i j at_, takes i j at_ ∧ t.tile = tileOfPixel at_) ∧
    (bodyKind r.body = .write → c.pixelMap = []) ∧
    (∀ n, r.body = .read n → c.pixelMap.length = n ∧ ∀ i, i < n →
      (∀ j at_, takes i j at_ → ∃ m f k, c.pixelMap[i]? = some (some (m, k)) ∧ c.fragments[m]? = some f ∧ f.pane = j ∧
        carries f k i at_) ∧
      ((∀ j at_, ¬ takes i j at_) → c.pixelMap[i]? = some none)) ∧
    ∃ drops : List Nat, drops.Nodup ∧ droppedPixels k (snapshotOf tb k) rc r = drops.length ∧
      ∀ i, i ∈ drops ↔ (∃ w, written i w) ∧ ∀ j at_, ¬ takes i j at_
/-- R127, R129: in the plan of a layout whose panes lie within the panel and overlap nowhere, each of the 4860 physical
tiles is the destination of exactly one position. The pending state a commit gives the tile onto which a pane places a
logical tile is a move from the tile onto which the first pane of the old record that shows the same surface and covers
the logical tile places it, and a fill of the surface where no pane does or no old record is present; a tile that no pane
owns is a dark fill. -/
def Obligations.PlanReachesEveryTileOnce : Prop :=
  ∀ rc : RecordCopy, PanesRight rc.panes →
    ((planTiles rc).length = 4860 ∧ (planTiles rc).Nodup ∧ ∀ t, t ∈ planTiles rc ↔ OnPanel t) ∧
    (∀ (old : Option RecordCopy) (t : Tile), (∀ p ∈ rc.panes, paneOwns p t = false) →
      planEntry rc old t = .pendingFill .dark) ∧
    ∀ (j : Nat) (p : Pane) (u v : Nat), rc.panes[j]? = some p → paneCovers p u v = true →
      let shows := fun q : Pane => q.surface = p.surface ∧ paneCovers q u v = true
      (∀ old : Option RecordCopy, (∀ o, old = some o → ∀ q ∈ o.panes, ¬ shows q) →
        planEntry rc old (placeTile p u v) = .pendingFill (.surface p.surface j)) ∧
      ∀ (o : RecordCopy) (i : Nat) (q : Pane), o.panes[i]? = some q → shows q →
        (∀ k x, k < i → o.panes[k]? = some x → ¬ shows x) →
        planEntry rc (some o) (placeTile p u v) =
          .pendingMove { source := placeTile q u v, oldPane := i, targetPane := j }

/-- R38, R39, R43: a table taken from an image that validation finds VALID has its panes within the panel, and no two of
one layout share a physical tile; its record 0 carries layout number 0 (R35). The built-in table has them too (R44). -/
def Obligations.ValidImagesPlacePanesRightly : Prop :=
  (∀ img : List Byte, validate img = none → TableRight (tableOfImage img) ∧
      (tableOfImage img).records.head?.map (·.number) = some 0) ∧
    TableRight builtInTable ∧ builtInTable.records.head?.map (·.number) = some 0

/-- R31: the checksum sees every change of a single byte beyond the two of the length field: of two images of one length
that differ in one such byte, at most one sums to 0xFFFF. -/
def Obligations.ChecksumSeesOneByte : Prop :=
  ∀ (img : List Byte) (i : Nat) (v : Byte), imageLength img % 2 = 0 → img.length = imageLength img →
    i < img.length → i ≠ 2 → i ≠ 3 → img[i]? ≠ some v → imageChecksum img = 0xFFFF →
    imageChecksum (img.set i v) ≠ 0xFFFF

/-- R155: the reads for the rest of an image of valid length are ascending and without gaps from byte 16 of the table area
to the image's end in whole pixels, each of 64 pixels but the last, which has at most 64. -/
def Obligations.RemainderReadsCoverTheImage : Prop :=
  ∀ length : Nat, 120 ≤ length → length ≤ 1376 →
    let reads := remainderReads length
    (reads.map Prod.snd).sum = (length - 16 + 2) / 4 ∧ reads ≠ [] ∧
      (∀ i a n, reads[i]? = some (a, n) → a = 0x04001010 + 256 * i ∧ 1 ≤ n ∧ n ≤ 64 ∧
        (i + 1 < reads.length → n = 64))

/-! ## What every step keeps -/

/-- The reset state has every bound and relation of the invariants below. -/
def Obligations.ResetStateIsRight : Prop :=
  NotifyRight State.reset ∧ CountersRight State.reset ∧ HingesRight State.reset ∧ QueuesRight State.reset ∧
    ClockRight State.reset ∧ ReadyRight State.reset ∧ TransitionRight State.reset ∧ OutstandingRight State.reset ∧
    PlacesRight State.reset ∧ TilesRight State.reset

/-- R164: every step keeps NOTIFY asserted exactly while a pending kind is enabled in the shadow table, so that it is
deasserted while the table is empty. -/
def Obligations.NotifyStaysRight : Prop :=
  ∀ s t : State, NotifyRight s → step s = .next t → NotifyRight t ∧ (t.cmd.shadow = none → t.notice.notify = false)

/-- R14, R82, R84, R142, R145, R146, R162, R166, R168, R169: every step keeps every counter within 0 to 65535 with its flag
set exactly at 65535; the hinges' runs, histories and filtered angles within their bounds; DN at 48 requests in flight at
most, the hold queue at 16 and the promotion queue at 16 with no tile twice; the clock before no due time of what runs, an
open poll's latest end among them (log 3, log 17); and in the order of the ready writes each record writer exactly once
while its write is ready, and not otherwise. At every step but the release of RESET_N the writers that stay ready
keep their order, a response that another replaces among them (log 11), and those whose write becomes ready join its end
together. Only where the step's command brings a request that writes a RESTART word can a response or counts write lose
its place, as RESTART discards it (log 30). -/
def Obligations.BoundsStayRight : Prop :=
  ∀ s t : State, step s = .next t →
    (CountersRight s → CountersRight t) ∧ (HingesRight s → HingesRight t) ∧ (QueuesRight s → QueuesRight t) ∧
      (ClockRight s → ClockRight t) ∧
      (ReadyRight s → ReadyRight t ∧ (s.pending.head? ≠ some .resetNRelease →
        ∃ (stays : RecordWriter → Bool) (fresh : List (List RecordWriter)),
          t.notice.readyQueue =
            (s.notice.readyQueue.map (·.filter stays)).filter (fun g => !g.isEmpty) ++ fresh ∧
          fresh.length ≤ 1 ∧ (∀ w, stays w = true → writerReady t.notice w = true) ∧
          ∀ w, writerReady t.notice w = true → stays w = false → (w = .response ∨ w = .counts) ∧
            ∃ c, s.pending.head? = some c ∧ ∃ q ∈ requestsBrought c s, asksRestart q))

/-- R40, R43, R101, R104, R109, R112, R125, R131, R132, R146: every step keeps the record copies, the shadow table, the load
hold, the pending slot and the map in the relations the rules give for each controller state; and, with those and the
queues' bounds and the panes right, the engine's map, promotion queue and buffers in agreement: every queued tile pending,
an entry in operation naming the buffer that works on its tile, and a busy buffer's tile with such an entry. -/
def Obligations.TransitionStaysRight : Prop :=
  ∀ s t : State, TransitionRight s → step s = .next t →
    TransitionRight t ∧ (QueuesRight s → PlacesRight s → TilesRight s → TilesRight t)

/-- R1, R6, R8, R45, R107, R108: every step keeps one context at most for each tag of each port, outstanding; the requests
of the intake places presentable, those of WAIT_TABLE surface requests with a free tag; and the old-write set a set of
outstanding surface writes that is empty exactly outside DRAINING. -/
def Obligations.OutstandingStaysRight : Prop :=
  ∀ s t : State, TransitionRight s → OutstandingRight s → step s = .next t → OutstandingRight t

/-- R43: every step keeps the panes of the shadow table and of the record copies within the panel and apart. -/
def Obligations.PlacesStayRight : Prop := ∀ s t : State, PlacesRight s → step s = .next t → PlacesRight t

/-- R114, R116: the release of RESET_N leaves PANEL_ENABLE deasserted; no other command deasserts PANEL_ENABLE (at the
assertion of RESET_N it keeps its level by the model's choice, log 8) or sets SCAN_BANK but to the other bank; a command
that changes SCAN_BANK is a flip: it makes the target record of the transition the active one, asserts PANEL_ENABLE and
raises LAYOUT_ACTIVE; and no command asserts PANEL_ENABLE without changing SCAN_BANK. -/
def Obligations.OnlyAFlipChangesTheBank : Prop :=
  (State.reset.ctrl.panelEnable = false ∧ ∀ s t : State, exec .resetNRelease s = .next t → t.ctrl.panelEnable = false) ∧
  ∀ (c : Instr) (s t : State), TransitionRight s → c ≠ .resetNRelease → exec c s = .next t →
    (s.ctrl.panelEnable = true → t.ctrl.panelEnable = true) ∧
    (t.ctrl.frontBank = s.ctrl.frontBank → t.ctrl.panelEnable = s.ctrl.panelEnable) ∧
    (t.ctrl.frontBank ≠ s.ctrl.frontBank → t.ctrl.active = s.ctrl.target ∧ s.ctrl.target.isSome = true ∧
      t.ctrl.panelEnable = true ∧ kindPending t.notice.set .layoutActive = true)

/-- R102, R106: the generation changes only at a commit, which adds 1 to it, 65535 being followed by 0, raises
TRANSITION_BEGUN and leaves a target record present; only the release of RESET_N sets it back. This holds where the
requests of WAIT_TABLE are surface requests, as every step keeps them (R8). -/
def Obligations.OnlyACommitRaisesTheGeneration : Prop :=
  ∀ (c : Instr) (s t : State), WaitsRight s → c ≠ .resetNRelease → exec c s = .next t →
    t.ctrl.generation ≠ s.ctrl.generation →
    t.ctrl.generation = s.ctrl.generation + 1 ∧ kindPending t.notice.set .transitionBegun = true ∧
      t.ctrl.target.isSome = true

/-- R40: only the end of a load, the end of CHECK and the release of RESET_N change the shadow table or the table source. -/
def Obligations.OnlyALoadChangesTheTable : Prop :=
  ∀ (c : Instr) (s t : State), exec c s = .next t → (∀ a, c ≠ .loaderReadAnswer a) → (∀ p, c ≠ .bootCheckEnd p) →
    c ≠ .resetNRelease → t.cmd.shadow = s.cmd.shadow ∧ t.cmd.source = s.cmd.source

/-- R166, R167: a command that changes a field of the status record, from before the command to after it (log 16), leaves
the status writer with a write to issue. -/
def Obligations.StatusChangeIsWritten : Prop :=
  ∀ (c : Instr) (s t : State), c ≠ .resetNRelease → exec c s = .next t → statusFields t ≠ statusFields s →
    t.notice.statusWriter = .due ∨ t.notice.statusWriter = .inFlightDue
end

