-- ==== Sys2Proof/Laws/State.lean ====
section
/-!
SUPPORT. What each update of the state leaves unchanged, field by field, so that no proof unfolds a record update.
-/
namespace Sys2Proof.Machine

/-- Two states are equal when their fifteen parts are. -/
theorem State.eq_of_parts {s t : State} (h0 : t.up0 = s.up0) (h1 : t.up1 = s.up1) (h2 : t.dn = s.dn)
    (h3 : t.contexts = s.contexts) (h4 : t.monitor = s.monitor) (h5 : t.ctrl = s.ctrl) (h6 : t.frame = s.frame)
    (h7 : t.engine = s.engine) (h8 : t.cmd = s.cmd) (h9 : t.notice = s.notice) (h10 : t.boot = s.boot)
    (h11 : t.pins = s.pins) (h12 : t.now = s.now) (h13 : t.freeUses = s.freeUses) (h14 : t.pending = s.pending) :
    t = s := by
  cases s; cases t; simp_all

variable (s : State)

/-! `onNotice` -/

@[simp] theorem onNotice_notice (f : NoticeUnit → NoticeUnit) : (onNotice f s).notice = f s.notice := rfl
@[simp] theorem onNotice_up0 (f : NoticeUnit → NoticeUnit) : (onNotice f s).up0 = s.up0 := rfl
@[simp] theorem onNotice_up1 (f : NoticeUnit → NoticeUnit) : (onNotice f s).up1 = s.up1 := rfl
@[simp] theorem onNotice_dn (f : NoticeUnit → NoticeUnit) : (onNotice f s).dn = s.dn := rfl
@[simp] theorem onNotice_contexts (f : NoticeUnit → NoticeUnit) : (onNotice f s).contexts = s.contexts := rfl
@[simp] theorem onNotice_monitor (f : NoticeUnit → NoticeUnit) : (onNotice f s).monitor = s.monitor := rfl
@[simp] theorem onNotice_ctrl (f : NoticeUnit → NoticeUnit) : (onNotice f s).ctrl = s.ctrl := rfl
@[simp] theorem onNotice_frame (f : NoticeUnit → NoticeUnit) : (onNotice f s).frame = s.frame := rfl
@[simp] theorem onNotice_engine (f : NoticeUnit → NoticeUnit) : (onNotice f s).engine = s.engine := rfl
@[simp] theorem onNotice_cmd (f : NoticeUnit → NoticeUnit) : (onNotice f s).cmd = s.cmd := rfl
@[simp] theorem onNotice_boot (f : NoticeUnit → NoticeUnit) : (onNotice f s).boot = s.boot := rfl
@[simp] theorem onNotice_pins (f : NoticeUnit → NoticeUnit) : (onNotice f s).pins = s.pins := rfl
@[simp] theorem onNotice_now (f : NoticeUnit → NoticeUnit) : (onNotice f s).now = s.now := rfl
@[simp] theorem onNotice_freeUses (f : NoticeUnit → NoticeUnit) : (onNotice f s).freeUses = s.freeUses := rfl
@[simp] theorem onNotice_pending (f : NoticeUnit → NoticeUnit) : (onNotice f s).pending = s.pending := rfl

/-! `raise` -/

@[simp] theorem raise_up0 (k : NoticeKind) : (raise k s).up0 = s.up0 := rfl
@[simp] theorem raise_up1 (k : NoticeKind) : (raise k s).up1 = s.up1 := rfl
@[simp] theorem raise_dn (k : NoticeKind) : (raise k s).dn = s.dn := rfl
@[simp] theorem raise_contexts (k : NoticeKind) : (raise k s).contexts = s.contexts := rfl
@[simp] theorem raise_monitor (k : NoticeKind) : (raise k s).monitor = s.monitor := rfl
@[simp] theorem raise_ctrl (k : NoticeKind) : (raise k s).ctrl = s.ctrl := rfl
@[simp] theorem raise_frame (k : NoticeKind) : (raise k s).frame = s.frame := rfl
@[simp] theorem raise_engine (k : NoticeKind) : (raise k s).engine = s.engine := rfl
@[simp] theorem raise_cmd (k : NoticeKind) : (raise k s).cmd = s.cmd := rfl
@[simp] theorem raise_boot (k : NoticeKind) : (raise k s).boot = s.boot := rfl
@[simp] theorem raise_pins (k : NoticeKind) : (raise k s).pins = s.pins := rfl
@[simp] theorem raise_now (k : NoticeKind) : (raise k s).now = s.now := rfl
@[simp] theorem raise_freeUses (k : NoticeKind) : (raise k s).freeUses = s.freeUses := rfl
@[simp] theorem raise_pending (k : NoticeKind) : (raise k s).pending = s.pending := rfl

/-! `countEvent` -/

@[simp] theorem countEvent_up0 (i : CounterId) (n : Nat) : (countEvent i n s).up0 = s.up0 := rfl
@[simp] theorem countEvent_up1 (i : CounterId) (n : Nat) : (countEvent i n s).up1 = s.up1 := rfl
@[simp] theorem countEvent_dn (i : CounterId) (n : Nat) : (countEvent i n s).dn = s.dn := rfl
@[simp] theorem countEvent_contexts (i : CounterId) (n : Nat) : (countEvent i n s).contexts = s.contexts := rfl
@[simp] theorem countEvent_monitor (i : CounterId) (n : Nat) : (countEvent i n s).monitor = s.monitor := rfl
@[simp] theorem countEvent_ctrl (i : CounterId) (n : Nat) : (countEvent i n s).ctrl = s.ctrl := rfl
@[simp] theorem countEvent_frame (i : CounterId) (n : Nat) : (countEvent i n s).frame = s.frame := rfl
@[simp] theorem countEvent_engine (i : CounterId) (n : Nat) : (countEvent i n s).engine = s.engine := rfl
@[simp] theorem countEvent_cmd (i : CounterId) (n : Nat) : (countEvent i n s).cmd = s.cmd := rfl
@[simp] theorem countEvent_boot (i : CounterId) (n : Nat) : (countEvent i n s).boot = s.boot := rfl
@[simp] theorem countEvent_pins (i : CounterId) (n : Nat) : (countEvent i n s).pins = s.pins := rfl
@[simp] theorem countEvent_now (i : CounterId) (n : Nat) : (countEvent i n s).now = s.now := rfl
@[simp] theorem countEvent_freeUses (i : CounterId) (n : Nat) : (countEvent i n s).freeUses = s.freeUses := rfl
@[simp] theorem countEvent_pending (i : CounterId) (n : Nat) : (countEvent i n s).pending = s.pending := rfl

/-! `countMemoryError` -/

@[simp] theorem countMemoryError_up0 : (countMemoryError s).up0 = s.up0 := rfl
@[simp] theorem countMemoryError_up1 : (countMemoryError s).up1 = s.up1 := rfl
@[simp] theorem countMemoryError_dn : (countMemoryError s).dn = s.dn := rfl
@[simp] theorem countMemoryError_contexts : (countMemoryError s).contexts = s.contexts := rfl
@[simp] theorem countMemoryError_monitor : (countMemoryError s).monitor = s.monitor := rfl
@[simp] theorem countMemoryError_ctrl : (countMemoryError s).ctrl = s.ctrl := rfl
@[simp] theorem countMemoryError_frame : (countMemoryError s).frame = s.frame := rfl
@[simp] theorem countMemoryError_engine : (countMemoryError s).engine = s.engine := rfl
@[simp] theorem countMemoryError_cmd : (countMemoryError s).cmd = s.cmd := rfl
@[simp] theorem countMemoryError_boot : (countMemoryError s).boot = s.boot := rfl
@[simp] theorem countMemoryError_pins : (countMemoryError s).pins = s.pins := rfl
@[simp] theorem countMemoryError_now : (countMemoryError s).now = s.now := rfl
@[simp] theorem countMemoryError_freeUses : (countMemoryError s).freeUses = s.freeUses := rfl
@[simp] theorem countMemoryError_pending : (countMemoryError s).pending = s.pending := rfl

/-! `respond` -/

@[simp] theorem respond_up0 (q : Byte) (r : CommandResult) (d : BitVec 16) : (respond q r d s).up0 = s.up0 := rfl
@[simp] theorem respond_up1 (q : Byte) (r : CommandResult) (d : BitVec 16) : (respond q r d s).up1 = s.up1 := rfl
@[simp] theorem respond_dn (q : Byte) (r : CommandResult) (d : BitVec 16) : (respond q r d s).dn = s.dn := rfl
@[simp] theorem respond_contexts (q : Byte) (r : CommandResult) (d : BitVec 16) : (respond q r d s).contexts = s.contexts := rfl
@[simp] theorem respond_monitor (q : Byte) (r : CommandResult) (d : BitVec 16) : (respond q r d s).monitor = s.monitor := rfl
@[simp] theorem respond_ctrl (q : Byte) (r : CommandResult) (d : BitVec 16) : (respond q r d s).ctrl = s.ctrl := rfl
@[simp] theorem respond_frame (q : Byte) (r : CommandResult) (d : BitVec 16) : (respond q r d s).frame = s.frame := rfl
@[simp] theorem respond_engine (q : Byte) (r : CommandResult) (d : BitVec 16) : (respond q r d s).engine = s.engine := rfl
@[simp] theorem respond_cmd (q : Byte) (r : CommandResult) (d : BitVec 16) : (respond q r d s).cmd = s.cmd := rfl
@[simp] theorem respond_boot (q : Byte) (r : CommandResult) (d : BitVec 16) : (respond q r d s).boot = s.boot := rfl
@[simp] theorem respond_pins (q : Byte) (r : CommandResult) (d : BitVec 16) : (respond q r d s).pins = s.pins := rfl
@[simp] theorem respond_now (q : Byte) (r : CommandResult) (d : BitVec 16) : (respond q r d s).now = s.now := rfl
@[simp] theorem respond_freeUses (q : Byte) (r : CommandResult) (d : BitVec 16) : (respond q r d s).freeUses = s.freeUses := rfl
@[simp] theorem respond_pending (q : Byte) (r : CommandResult) (d : BitVec 16) : (respond q r d s).pending = s.pending := rfl

/-! `settleOutputs` -/

@[simp] theorem settleOutputs_up0 (b : State) : (settleOutputs b s).up0 = s.up0 := rfl
@[simp] theorem settleOutputs_up1 (b : State) : (settleOutputs b s).up1 = s.up1 := rfl
@[simp] theorem settleOutputs_dn (b : State) : (settleOutputs b s).dn = s.dn := rfl
@[simp] theorem settleOutputs_contexts (b : State) : (settleOutputs b s).contexts = s.contexts := rfl
@[simp] theorem settleOutputs_monitor (b : State) : (settleOutputs b s).monitor = s.monitor := rfl
@[simp] theorem settleOutputs_ctrl (b : State) : (settleOutputs b s).ctrl = s.ctrl := rfl
@[simp] theorem settleOutputs_frame (b : State) : (settleOutputs b s).frame = s.frame := rfl
@[simp] theorem settleOutputs_engine (b : State) : (settleOutputs b s).engine = s.engine := rfl
@[simp] theorem settleOutputs_cmd (b : State) : (settleOutputs b s).cmd = s.cmd := rfl
@[simp] theorem settleOutputs_boot (b : State) : (settleOutputs b s).boot = s.boot := rfl
@[simp] theorem settleOutputs_pins (b : State) : (settleOutputs b s).pins = s.pins := rfl
@[simp] theorem settleOutputs_now (b : State) : (settleOutputs b s).now = s.now := rfl
@[simp] theorem settleOutputs_freeUses (b : State) : (settleOutputs b s).freeUses = s.freeUses := rfl
@[simp] theorem settleOutputs_pending (b : State) : (settleOutputs b s).pending = s.pending := rfl

/-! `onEngine` -/

@[simp] theorem onEngine_engine (f : Engine → Engine) : (onEngine f s).engine = f s.engine := rfl
@[simp] theorem onEngine_up0 (f : Engine → Engine) : (onEngine f s).up0 = s.up0 := rfl
@[simp] theorem onEngine_up1 (f : Engine → Engine) : (onEngine f s).up1 = s.up1 := rfl
@[simp] theorem onEngine_dn (f : Engine → Engine) : (onEngine f s).dn = s.dn := rfl
@[simp] theorem onEngine_contexts (f : Engine → Engine) : (onEngine f s).contexts = s.contexts := rfl
@[simp] theorem onEngine_monitor (f : Engine → Engine) : (onEngine f s).monitor = s.monitor := rfl
@[simp] theorem onEngine_ctrl (f : Engine → Engine) : (onEngine f s).ctrl = s.ctrl := rfl
@[simp] theorem onEngine_frame (f : Engine → Engine) : (onEngine f s).frame = s.frame := rfl
@[simp] theorem onEngine_cmd (f : Engine → Engine) : (onEngine f s).cmd = s.cmd := rfl
@[simp] theorem onEngine_notice (f : Engine → Engine) : (onEngine f s).notice = s.notice := rfl
@[simp] theorem onEngine_boot (f : Engine → Engine) : (onEngine f s).boot = s.boot := rfl
@[simp] theorem onEngine_pins (f : Engine → Engine) : (onEngine f s).pins = s.pins := rfl
@[simp] theorem onEngine_now (f : Engine → Engine) : (onEngine f s).now = s.now := rfl
@[simp] theorem onEngine_freeUses (f : Engine → Engine) : (onEngine f s).freeUses = s.freeUses := rfl
@[simp] theorem onEngine_pending (f : Engine → Engine) : (onEngine f s).pending = s.pending := rfl

/-! `onCtrl` -/

@[simp] theorem onCtrl_ctrl (f : Controller → Controller) : (onCtrl f s).ctrl = f s.ctrl := rfl
@[simp] theorem onCtrl_up0 (f : Controller → Controller) : (onCtrl f s).up0 = s.up0 := rfl
@[simp] theorem onCtrl_up1 (f : Controller → Controller) : (onCtrl f s).up1 = s.up1 := rfl
@[simp] theorem onCtrl_dn (f : Controller → Controller) : (onCtrl f s).dn = s.dn := rfl
@[simp] theorem onCtrl_contexts (f : Controller → Controller) : (onCtrl f s).contexts = s.contexts := rfl
@[simp] theorem onCtrl_monitor (f : Controller → Controller) : (onCtrl f s).monitor = s.monitor := rfl
@[simp] theorem onCtrl_frame (f : Controller → Controller) : (onCtrl f s).frame = s.frame := rfl
@[simp] theorem onCtrl_engine (f : Controller → Controller) : (onCtrl f s).engine = s.engine := rfl
@[simp] theorem onCtrl_cmd (f : Controller → Controller) : (onCtrl f s).cmd = s.cmd := rfl
@[simp] theorem onCtrl_notice (f : Controller → Controller) : (onCtrl f s).notice = s.notice := rfl
@[simp] theorem onCtrl_boot (f : Controller → Controller) : (onCtrl f s).boot = s.boot := rfl
@[simp] theorem onCtrl_pins (f : Controller → Controller) : (onCtrl f s).pins = s.pins := rfl
@[simp] theorem onCtrl_now (f : Controller → Controller) : (onCtrl f s).now = s.now := rfl
@[simp] theorem onCtrl_freeUses (f : Controller → Controller) : (onCtrl f s).freeUses = s.freeUses := rfl
@[simp] theorem onCtrl_pending (f : Controller → Controller) : (onCtrl f s).pending = s.pending := rfl

/-! `onMonitor` -/

@[simp] theorem onMonitor_monitor (f : Monitor → Monitor) : (onMonitor f s).monitor = f s.monitor := rfl
@[simp] theorem onMonitor_up0 (f : Monitor → Monitor) : (onMonitor f s).up0 = s.up0 := rfl
@[simp] theorem onMonitor_up1 (f : Monitor → Monitor) : (onMonitor f s).up1 = s.up1 := rfl
@[simp] theorem onMonitor_dn (f : Monitor → Monitor) : (onMonitor f s).dn = s.dn := rfl
@[simp] theorem onMonitor_contexts (f : Monitor → Monitor) : (onMonitor f s).contexts = s.contexts := rfl
@[simp] theorem onMonitor_ctrl (f : Monitor → Monitor) : (onMonitor f s).ctrl = s.ctrl := rfl
@[simp] theorem onMonitor_frame (f : Monitor → Monitor) : (onMonitor f s).frame = s.frame := rfl
@[simp] theorem onMonitor_engine (f : Monitor → Monitor) : (onMonitor f s).engine = s.engine := rfl
@[simp] theorem onMonitor_cmd (f : Monitor → Monitor) : (onMonitor f s).cmd = s.cmd := rfl
@[simp] theorem onMonitor_notice (f : Monitor → Monitor) : (onMonitor f s).notice = s.notice := rfl
@[simp] theorem onMonitor_boot (f : Monitor → Monitor) : (onMonitor f s).boot = s.boot := rfl
@[simp] theorem onMonitor_pins (f : Monitor → Monitor) : (onMonitor f s).pins = s.pins := rfl
@[simp] theorem onMonitor_now (f : Monitor → Monitor) : (onMonitor f s).now = s.now := rfl
@[simp] theorem onMonitor_freeUses (f : Monitor → Monitor) : (onMonitor f s).freeUses = s.freeUses := rfl
@[simp] theorem onMonitor_pending (f : Monitor → Monitor) : (onMonitor f s).pending = s.pending := rfl

/-! `onCmd` -/

@[simp] theorem onCmd_cmd (f : CommandBlock → CommandBlock) : (onCmd f s).cmd = f s.cmd := rfl
@[simp] theorem onCmd_up0 (f : CommandBlock → CommandBlock) : (onCmd f s).up0 = s.up0 := rfl
@[simp] theorem onCmd_up1 (f : CommandBlock → CommandBlock) : (onCmd f s).up1 = s.up1 := rfl
@[simp] theorem onCmd_dn (f : CommandBlock → CommandBlock) : (onCmd f s).dn = s.dn := rfl
@[simp] theorem onCmd_contexts (f : CommandBlock → CommandBlock) : (onCmd f s).contexts = s.contexts := rfl
@[simp] theorem onCmd_monitor (f : CommandBlock → CommandBlock) : (onCmd f s).monitor = s.monitor := rfl
@[simp] theorem onCmd_ctrl (f : CommandBlock → CommandBlock) : (onCmd f s).ctrl = s.ctrl := rfl
@[simp] theorem onCmd_frame (f : CommandBlock → CommandBlock) : (onCmd f s).frame = s.frame := rfl
@[simp] theorem onCmd_engine (f : CommandBlock → CommandBlock) : (onCmd f s).engine = s.engine := rfl
@[simp] theorem onCmd_notice (f : CommandBlock → CommandBlock) : (onCmd f s).notice = s.notice := rfl
@[simp] theorem onCmd_boot (f : CommandBlock → CommandBlock) : (onCmd f s).boot = s.boot := rfl
@[simp] theorem onCmd_pins (f : CommandBlock → CommandBlock) : (onCmd f s).pins = s.pins := rfl
@[simp] theorem onCmd_now (f : CommandBlock → CommandBlock) : (onCmd f s).now = s.now := rfl
@[simp] theorem onCmd_freeUses (f : CommandBlock → CommandBlock) : (onCmd f s).freeUses = s.freeUses := rfl
@[simp] theorem onCmd_pending (f : CommandBlock → CommandBlock) : (onCmd f s).pending = s.pending := rfl

/-! `onLoad` -/

@[simp] theorem onLoad_up0 (f : TableLoad → TableLoad) : (onLoad f s).up0 = s.up0 := rfl
@[simp] theorem onLoad_up1 (f : TableLoad → TableLoad) : (onLoad f s).up1 = s.up1 := rfl
@[simp] theorem onLoad_dn (f : TableLoad → TableLoad) : (onLoad f s).dn = s.dn := rfl
@[simp] theorem onLoad_contexts (f : TableLoad → TableLoad) : (onLoad f s).contexts = s.contexts := rfl
@[simp] theorem onLoad_monitor (f : TableLoad → TableLoad) : (onLoad f s).monitor = s.monitor := rfl
@[simp] theorem onLoad_ctrl (f : TableLoad → TableLoad) : (onLoad f s).ctrl = s.ctrl := rfl
@[simp] theorem onLoad_frame (f : TableLoad → TableLoad) : (onLoad f s).frame = s.frame := rfl
@[simp] theorem onLoad_engine (f : TableLoad → TableLoad) : (onLoad f s).engine = s.engine := rfl
@[simp] theorem onLoad_notice (f : TableLoad → TableLoad) : (onLoad f s).notice = s.notice := rfl
@[simp] theorem onLoad_boot (f : TableLoad → TableLoad) : (onLoad f s).boot = s.boot := rfl
@[simp] theorem onLoad_pins (f : TableLoad → TableLoad) : (onLoad f s).pins = s.pins := rfl
@[simp] theorem onLoad_now (f : TableLoad → TableLoad) : (onLoad f s).now = s.now := rfl
@[simp] theorem onLoad_freeUses (f : TableLoad → TableLoad) : (onLoad f s).freeUses = s.freeUses := rfl
@[simp] theorem onLoad_pending (f : TableLoad → TableLoad) : (onLoad f s).pending = s.pending := rfl

/-! `onFrame` -/

@[simp] theorem onFrame_frame (f : FrameMonitor → FrameMonitor) : (onFrame f s).frame = f s.frame := rfl
@[simp] theorem onFrame_up0 (f : FrameMonitor → FrameMonitor) : (onFrame f s).up0 = s.up0 := rfl
@[simp] theorem onFrame_up1 (f : FrameMonitor → FrameMonitor) : (onFrame f s).up1 = s.up1 := rfl
@[simp] theorem onFrame_dn (f : FrameMonitor → FrameMonitor) : (onFrame f s).dn = s.dn := rfl
@[simp] theorem onFrame_contexts (f : FrameMonitor → FrameMonitor) : (onFrame f s).contexts = s.contexts := rfl
@[simp] theorem onFrame_monitor (f : FrameMonitor → FrameMonitor) : (onFrame f s).monitor = s.monitor := rfl
@[simp] theorem onFrame_ctrl (f : FrameMonitor → FrameMonitor) : (onFrame f s).ctrl = s.ctrl := rfl
@[simp] theorem onFrame_engine (f : FrameMonitor → FrameMonitor) : (onFrame f s).engine = s.engine := rfl
@[simp] theorem onFrame_cmd (f : FrameMonitor → FrameMonitor) : (onFrame f s).cmd = s.cmd := rfl
@[simp] theorem onFrame_notice (f : FrameMonitor → FrameMonitor) : (onFrame f s).notice = s.notice := rfl
@[simp] theorem onFrame_boot (f : FrameMonitor → FrameMonitor) : (onFrame f s).boot = s.boot := rfl
@[simp] theorem onFrame_pins (f : FrameMonitor → FrameMonitor) : (onFrame f s).pins = s.pins := rfl
@[simp] theorem onFrame_now (f : FrameMonitor → FrameMonitor) : (onFrame f s).now = s.now := rfl
@[simp] theorem onFrame_freeUses (f : FrameMonitor → FrameMonitor) : (onFrame f s).freeUses = s.freeUses := rfl
@[simp] theorem onFrame_pending (f : FrameMonitor → FrameMonitor) : (onFrame f s).pending = s.pending := rfl

/-! `onBoot` -/

@[simp] theorem onBoot_boot (f : BootLoader → BootLoader) : (onBoot f s).boot = f s.boot := rfl
@[simp] theorem onBoot_up0 (f : BootLoader → BootLoader) : (onBoot f s).up0 = s.up0 := rfl
@[simp] theorem onBoot_up1 (f : BootLoader → BootLoader) : (onBoot f s).up1 = s.up1 := rfl
@[simp] theorem onBoot_dn (f : BootLoader → BootLoader) : (onBoot f s).dn = s.dn := rfl
@[simp] theorem onBoot_contexts (f : BootLoader → BootLoader) : (onBoot f s).contexts = s.contexts := rfl
@[simp] theorem onBoot_monitor (f : BootLoader → BootLoader) : (onBoot f s).monitor = s.monitor := rfl
@[simp] theorem onBoot_ctrl (f : BootLoader → BootLoader) : (onBoot f s).ctrl = s.ctrl := rfl
@[simp] theorem onBoot_frame (f : BootLoader → BootLoader) : (onBoot f s).frame = s.frame := rfl
@[simp] theorem onBoot_engine (f : BootLoader → BootLoader) : (onBoot f s).engine = s.engine := rfl
@[simp] theorem onBoot_cmd (f : BootLoader → BootLoader) : (onBoot f s).cmd = s.cmd := rfl
@[simp] theorem onBoot_notice (f : BootLoader → BootLoader) : (onBoot f s).notice = s.notice := rfl
@[simp] theorem onBoot_pins (f : BootLoader → BootLoader) : (onBoot f s).pins = s.pins := rfl
@[simp] theorem onBoot_now (f : BootLoader → BootLoader) : (onBoot f s).now = s.now := rfl
@[simp] theorem onBoot_freeUses (f : BootLoader → BootLoader) : (onBoot f s).freeUses = s.freeUses := rfl
@[simp] theorem onBoot_pending (f : BootLoader → BootLoader) : (onBoot f s).pending = s.pending := rfl

/-! `replaceTable` -/

@[simp] theorem replaceTable_up0 (t : Table) (r : TableSource) : (replaceTable t r s).up0 = s.up0 := rfl
@[simp] theorem replaceTable_up1 (t : Table) (r : TableSource) : (replaceTable t r s).up1 = s.up1 := rfl
@[simp] theorem replaceTable_dn (t : Table) (r : TableSource) : (replaceTable t r s).dn = s.dn := rfl
@[simp] theorem replaceTable_contexts (t : Table) (r : TableSource) : (replaceTable t r s).contexts = s.contexts := rfl
@[simp] theorem replaceTable_monitor (t : Table) (r : TableSource) : (replaceTable t r s).monitor = s.monitor := rfl
@[simp] theorem replaceTable_ctrl (t : Table) (r : TableSource) : (replaceTable t r s).ctrl = s.ctrl := rfl
@[simp] theorem replaceTable_frame (t : Table) (r : TableSource) : (replaceTable t r s).frame = s.frame := rfl
@[simp] theorem replaceTable_engine (t : Table) (r : TableSource) : (replaceTable t r s).engine = s.engine := rfl
@[simp] theorem replaceTable_notice (t : Table) (r : TableSource) : (replaceTable t r s).notice = s.notice := rfl
@[simp] theorem replaceTable_boot (t : Table) (r : TableSource) : (replaceTable t r s).boot = s.boot := rfl
@[simp] theorem replaceTable_pins (t : Table) (r : TableSource) : (replaceTable t r s).pins = s.pins := rfl
@[simp] theorem replaceTable_now (t : Table) (r : TableSource) : (replaceTable t r s).now = s.now := rfl
@[simp] theorem replaceTable_freeUses (t : Table) (r : TableSource) : (replaceTable t r s).freeUses = s.freeUses := rfl
@[simp] theorem replaceTable_pending (t : Table) (r : TableSource) : (replaceTable t r s).pending = s.pending := rfl

/-! `clockAt` -/

@[simp] theorem clockAt_up0 (t : Nat) : (clockAt t s).up0 = s.up0 := rfl
@[simp] theorem clockAt_up1 (t : Nat) : (clockAt t s).up1 = s.up1 := rfl
@[simp] theorem clockAt_dn (t : Nat) : (clockAt t s).dn = s.dn := rfl
@[simp] theorem clockAt_contexts (t : Nat) : (clockAt t s).contexts = s.contexts := rfl
@[simp] theorem clockAt_monitor (t : Nat) : (clockAt t s).monitor = s.monitor := rfl
@[simp] theorem clockAt_ctrl (t : Nat) : (clockAt t s).ctrl = s.ctrl := rfl
@[simp] theorem clockAt_frame (t : Nat) : (clockAt t s).frame = s.frame := rfl
@[simp] theorem clockAt_engine (t : Nat) : (clockAt t s).engine = s.engine := rfl
@[simp] theorem clockAt_cmd (t : Nat) : (clockAt t s).cmd = s.cmd := rfl
@[simp] theorem clockAt_notice (t : Nat) : (clockAt t s).notice = s.notice := rfl
@[simp] theorem clockAt_boot (t : Nat) : (clockAt t s).boot = s.boot := rfl
@[simp] theorem clockAt_pins (t : Nat) : (clockAt t s).pins = s.pins := rfl
@[simp] theorem clockAt_freeUses (t : Nat) : (clockAt t s).freeUses = s.freeUses := rfl
@[simp] theorem clockAt_pending (t : Nat) : (clockAt t s).pending = s.pending := rfl

/-! `popInFlight` -/

@[simp] theorem popInFlight_up0 : (popInFlight s).up0 = s.up0 := rfl
@[simp] theorem popInFlight_up1 : (popInFlight s).up1 = s.up1 := rfl
@[simp] theorem popInFlight_contexts : (popInFlight s).contexts = s.contexts := rfl
@[simp] theorem popInFlight_monitor : (popInFlight s).monitor = s.monitor := rfl
@[simp] theorem popInFlight_ctrl : (popInFlight s).ctrl = s.ctrl := rfl
@[simp] theorem popInFlight_frame : (popInFlight s).frame = s.frame := rfl
@[simp] theorem popInFlight_engine : (popInFlight s).engine = s.engine := rfl
@[simp] theorem popInFlight_cmd : (popInFlight s).cmd = s.cmd := rfl
@[simp] theorem popInFlight_notice : (popInFlight s).notice = s.notice := rfl
@[simp] theorem popInFlight_boot : (popInFlight s).boot = s.boot := rfl
@[simp] theorem popInFlight_pins : (popInFlight s).pins = s.pins := rfl
@[simp] theorem popInFlight_now : (popInFlight s).now = s.now := rfl
@[simp] theorem popInFlight_freeUses : (popInFlight s).freeUses = s.freeUses := rfl
@[simp] theorem popInFlight_pending : (popInFlight s).pending = s.pending := rfl

/-! `putContext` -/

@[simp] theorem putContext_up0 (c : Context) : (putContext c s).up0 = s.up0 := rfl
@[simp] theorem putContext_up1 (c : Context) : (putContext c s).up1 = s.up1 := rfl
@[simp] theorem putContext_dn (c : Context) : (putContext c s).dn = s.dn := rfl
@[simp] theorem putContext_monitor (c : Context) : (putContext c s).monitor = s.monitor := rfl
@[simp] theorem putContext_ctrl (c : Context) : (putContext c s).ctrl = s.ctrl := rfl
@[simp] theorem putContext_frame (c : Context) : (putContext c s).frame = s.frame := rfl
@[simp] theorem putContext_engine (c : Context) : (putContext c s).engine = s.engine := rfl
@[simp] theorem putContext_cmd (c : Context) : (putContext c s).cmd = s.cmd := rfl
@[simp] theorem putContext_notice (c : Context) : (putContext c s).notice = s.notice := rfl
@[simp] theorem putContext_boot (c : Context) : (putContext c s).boot = s.boot := rfl
@[simp] theorem putContext_pins (c : Context) : (putContext c s).pins = s.pins := rfl
@[simp] theorem putContext_now (c : Context) : (putContext c s).now = s.now := rfl
@[simp] theorem putContext_freeUses (c : Context) : (putContext c s).freeUses = s.freeUses := rfl
@[simp] theorem putContext_pending (c : Context) : (putContext c s).pending = s.pending := rfl

/-! `dropContext` -/

@[simp] theorem dropContext_up0 (k : Key) : (dropContext k s).up0 = s.up0 := rfl
@[simp] theorem dropContext_up1 (k : Key) : (dropContext k s).up1 = s.up1 := rfl
@[simp] theorem dropContext_dn (k : Key) : (dropContext k s).dn = s.dn := rfl
@[simp] theorem dropContext_monitor (k : Key) : (dropContext k s).monitor = s.monitor := rfl
@[simp] theorem dropContext_ctrl (k : Key) : (dropContext k s).ctrl = s.ctrl := rfl
@[simp] theorem dropContext_frame (k : Key) : (dropContext k s).frame = s.frame := rfl
@[simp] theorem dropContext_engine (k : Key) : (dropContext k s).engine = s.engine := rfl
@[simp] theorem dropContext_cmd (k : Key) : (dropContext k s).cmd = s.cmd := rfl
@[simp] theorem dropContext_notice (k : Key) : (dropContext k s).notice = s.notice := rfl
@[simp] theorem dropContext_boot (k : Key) : (dropContext k s).boot = s.boot := rfl
@[simp] theorem dropContext_pins (k : Key) : (dropContext k s).pins = s.pins := rfl
@[simp] theorem dropContext_now (k : Key) : (dropContext k s).now = s.now := rfl
@[simp] theorem dropContext_freeUses (k : Key) : (dropContext k s).freeUses = s.freeUses := rfl
@[simp] theorem dropContext_pending (k : Key) : (dropContext k s).pending = s.pending := rfl

/-! `dropLoadAnswer` -/

@[simp] theorem dropLoadAnswer_up0 : (dropLoadAnswer s).up0 = s.up0 := rfl
@[simp] theorem dropLoadAnswer_up1 : (dropLoadAnswer s).up1 = s.up1 := rfl
@[simp] theorem dropLoadAnswer_dn : (dropLoadAnswer s).dn = s.dn := rfl
@[simp] theorem dropLoadAnswer_contexts : (dropLoadAnswer s).contexts = s.contexts := rfl
@[simp] theorem dropLoadAnswer_monitor : (dropLoadAnswer s).monitor = s.monitor := rfl
@[simp] theorem dropLoadAnswer_ctrl : (dropLoadAnswer s).ctrl = s.ctrl := rfl
@[simp] theorem dropLoadAnswer_frame : (dropLoadAnswer s).frame = s.frame := rfl
@[simp] theorem dropLoadAnswer_engine : (dropLoadAnswer s).engine = s.engine := rfl
@[simp] theorem dropLoadAnswer_notice : (dropLoadAnswer s).notice = s.notice := rfl
@[simp] theorem dropLoadAnswer_boot : (dropLoadAnswer s).boot = s.boot := rfl
@[simp] theorem dropLoadAnswer_pins : (dropLoadAnswer s).pins = s.pins := rfl
@[simp] theorem dropLoadAnswer_now : (dropLoadAnswer s).now = s.now := rfl
@[simp] theorem dropLoadAnswer_freeUses : (dropLoadAnswer s).freeUses = s.freeUses := rfl
@[simp] theorem dropLoadAnswer_pending : (dropLoadAnswer s).pending = s.pending := rfl

/-! `abandonLoad` -/

@[simp] theorem abandonLoad_up0 : (abandonLoad s).up0 = s.up0 := rfl
@[simp] theorem abandonLoad_up1 : (abandonLoad s).up1 = s.up1 := rfl
@[simp] theorem abandonLoad_dn : (abandonLoad s).dn = s.dn := rfl
@[simp] theorem abandonLoad_contexts : (abandonLoad s).contexts = s.contexts := rfl
@[simp] theorem abandonLoad_monitor : (abandonLoad s).monitor = s.monitor := rfl
@[simp] theorem abandonLoad_ctrl : (abandonLoad s).ctrl = s.ctrl := rfl
@[simp] theorem abandonLoad_frame : (abandonLoad s).frame = s.frame := rfl
@[simp] theorem abandonLoad_engine : (abandonLoad s).engine = s.engine := rfl
@[simp] theorem abandonLoad_notice : (abandonLoad s).notice = s.notice := rfl
@[simp] theorem abandonLoad_boot : (abandonLoad s).boot = s.boot := rfl
@[simp] theorem abandonLoad_pins : (abandonLoad s).pins = s.pins := rfl
@[simp] theorem abandonLoad_now : (abandonLoad s).now = s.now := rfl
@[simp] theorem abandonLoad_freeUses : (abandonLoad s).freeUses = s.freeUses := rfl
@[simp] theorem abandonLoad_pending : (abandonLoad s).pending = s.pending := rfl

/-! `hostWriteDone` -/

@[simp] theorem hostWriteDone_up0 (k : Key) : (hostWriteDone k s).up0 = s.up0 := rfl
@[simp] theorem hostWriteDone_up1 (k : Key) : (hostWriteDone k s).up1 = s.up1 := rfl
@[simp] theorem hostWriteDone_dn (k : Key) : (hostWriteDone k s).dn = s.dn := rfl
@[simp] theorem hostWriteDone_contexts (k : Key) : (hostWriteDone k s).contexts = s.contexts := rfl
@[simp] theorem hostWriteDone_monitor (k : Key) : (hostWriteDone k s).monitor = s.monitor := rfl
@[simp] theorem hostWriteDone_ctrl (k : Key) : (hostWriteDone k s).ctrl = s.ctrl := rfl
@[simp] theorem hostWriteDone_frame (k : Key) : (hostWriteDone k s).frame = s.frame := rfl
@[simp] theorem hostWriteDone_engine (k : Key) : (hostWriteDone k s).engine = s.engine := rfl
@[simp] theorem hostWriteDone_cmd (k : Key) : (hostWriteDone k s).cmd = s.cmd := rfl
@[simp] theorem hostWriteDone_boot (k : Key) : (hostWriteDone k s).boot = s.boot := rfl
@[simp] theorem hostWriteDone_pins (k : Key) : (hostWriteDone k s).pins = s.pins := rfl
@[simp] theorem hostWriteDone_now (k : Key) : (hostWriteDone k s).now = s.now := rfl
@[simp] theorem hostWriteDone_freeUses (k : Key) : (hostWriteDone k s).freeUses = s.freeUses := rfl
@[simp] theorem hostWriteDone_pending (k : Key) : (hostWriteDone k s).pending = s.pending := rfl

/-! `recordStart` -/

@[simp] theorem recordStart_up0 : (recordStart s).up0 = s.up0 := rfl
@[simp] theorem recordStart_up1 : (recordStart s).up1 = s.up1 := rfl
@[simp] theorem recordStart_dn : (recordStart s).dn = s.dn := rfl
@[simp] theorem recordStart_contexts : (recordStart s).contexts = s.contexts := rfl
@[simp] theorem recordStart_monitor : (recordStart s).monitor = s.monitor := rfl
@[simp] theorem recordStart_ctrl : (recordStart s).ctrl = s.ctrl := rfl
@[simp] theorem recordStart_engine : (recordStart s).engine = s.engine := rfl
@[simp] theorem recordStart_cmd : (recordStart s).cmd = s.cmd := rfl
@[simp] theorem recordStart_notice : (recordStart s).notice = s.notice := rfl
@[simp] theorem recordStart_boot : (recordStart s).boot = s.boot := rfl
@[simp] theorem recordStart_pins : (recordStart s).pins = s.pins := rfl
@[simp] theorem recordStart_now : (recordStart s).now = s.now := rfl
@[simp] theorem recordStart_freeUses : (recordStart s).freeUses = s.freeUses := rfl
@[simp] theorem recordStart_pending : (recordStart s).pending = s.pending := rfl

/-! `monitorNewTable` -/

@[simp] theorem monitorNewTable_up0 (t : Table) : (monitorNewTable t s).up0 = s.up0 := rfl
@[simp] theorem monitorNewTable_up1 (t : Table) : (monitorNewTable t s).up1 = s.up1 := rfl
@[simp] theorem monitorNewTable_dn (t : Table) : (monitorNewTable t s).dn = s.dn := rfl
@[simp] theorem monitorNewTable_contexts (t : Table) : (monitorNewTable t s).contexts = s.contexts := rfl
@[simp] theorem monitorNewTable_ctrl (t : Table) : (monitorNewTable t s).ctrl = s.ctrl := rfl
@[simp] theorem monitorNewTable_frame (t : Table) : (monitorNewTable t s).frame = s.frame := rfl
@[simp] theorem monitorNewTable_engine (t : Table) : (monitorNewTable t s).engine = s.engine := rfl
@[simp] theorem monitorNewTable_cmd (t : Table) : (monitorNewTable t s).cmd = s.cmd := rfl
@[simp] theorem monitorNewTable_notice (t : Table) : (monitorNewTable t s).notice = s.notice := rfl
@[simp] theorem monitorNewTable_boot (t : Table) : (monitorNewTable t s).boot = s.boot := rfl
@[simp] theorem monitorNewTable_pins (t : Table) : (monitorNewTable t s).pins = s.pins := rfl
@[simp] theorem monitorNewTable_now (t : Table) : (monitorNewTable t s).now = s.now := rfl
@[simp] theorem monitorNewTable_freeUses (t : Table) : (monitorNewTable t s).freeUses = s.freeUses := rfl
@[simp] theorem monitorNewTable_pending (t : Table) : (monitorNewTable t s).pending = s.pending := rfl

/-! `monitorRestart` -/

@[simp] theorem monitorRestart_up0 : (monitorRestart s).up0 = s.up0 := rfl
@[simp] theorem monitorRestart_up1 : (monitorRestart s).up1 = s.up1 := rfl
@[simp] theorem monitorRestart_dn : (monitorRestart s).dn = s.dn := rfl
@[simp] theorem monitorRestart_contexts : (monitorRestart s).contexts = s.contexts := rfl
@[simp] theorem monitorRestart_ctrl : (monitorRestart s).ctrl = s.ctrl := rfl
@[simp] theorem monitorRestart_frame : (monitorRestart s).frame = s.frame := rfl
@[simp] theorem monitorRestart_engine : (monitorRestart s).engine = s.engine := rfl
@[simp] theorem monitorRestart_cmd : (monitorRestart s).cmd = s.cmd := rfl
@[simp] theorem monitorRestart_notice : (monitorRestart s).notice = s.notice := rfl
@[simp] theorem monitorRestart_boot : (monitorRestart s).boot = s.boot := rfl
@[simp] theorem monitorRestart_pins : (monitorRestart s).pins = s.pins := rfl
@[simp] theorem monitorRestart_now : (monitorRestart s).now = s.now := rfl
@[simp] theorem monitorRestart_freeUses : (monitorRestart s).freeUses = s.freeUses := rfl
@[simp] theorem monitorRestart_pending : (monitorRestart s).pending = s.pending := rfl

/-! `restSpi` -/

@[simp] theorem restSpi_up0 : (restSpi s).up0 = s.up0 := rfl
@[simp] theorem restSpi_up1 : (restSpi s).up1 = s.up1 := rfl
@[simp] theorem restSpi_dn : (restSpi s).dn = s.dn := rfl
@[simp] theorem restSpi_contexts : (restSpi s).contexts = s.contexts := rfl
@[simp] theorem restSpi_monitor : (restSpi s).monitor = s.monitor := rfl
@[simp] theorem restSpi_ctrl : (restSpi s).ctrl = s.ctrl := rfl
@[simp] theorem restSpi_frame : (restSpi s).frame = s.frame := rfl
@[simp] theorem restSpi_engine : (restSpi s).engine = s.engine := rfl
@[simp] theorem restSpi_cmd : (restSpi s).cmd = s.cmd := rfl
@[simp] theorem restSpi_notice : (restSpi s).notice = s.notice := rfl
@[simp] theorem restSpi_boot : (restSpi s).boot = s.boot := rfl
@[simp] theorem restSpi_now : (restSpi s).now = s.now := rfl
@[simp] theorem restSpi_pending : (restSpi s).pending = s.pending := rfl

/-! `beginSpi` -/

@[simp] theorem beginSpi_up0 (o n : Nat) : (beginSpi o n s).up0 = s.up0 := rfl
@[simp] theorem beginSpi_up1 (o n : Nat) : (beginSpi o n s).up1 = s.up1 := rfl
@[simp] theorem beginSpi_dn (o n : Nat) : (beginSpi o n s).dn = s.dn := rfl
@[simp] theorem beginSpi_contexts (o n : Nat) : (beginSpi o n s).contexts = s.contexts := rfl
@[simp] theorem beginSpi_monitor (o n : Nat) : (beginSpi o n s).monitor = s.monitor := rfl
@[simp] theorem beginSpi_ctrl (o n : Nat) : (beginSpi o n s).ctrl = s.ctrl := rfl
@[simp] theorem beginSpi_frame (o n : Nat) : (beginSpi o n s).frame = s.frame := rfl
@[simp] theorem beginSpi_engine (o n : Nat) : (beginSpi o n s).engine = s.engine := rfl
@[simp] theorem beginSpi_cmd (o n : Nat) : (beginSpi o n s).cmd = s.cmd := rfl
@[simp] theorem beginSpi_notice (o n : Nat) : (beginSpi o n s).notice = s.notice := rfl
@[simp] theorem beginSpi_now (o n : Nat) : (beginSpi o n s).now = s.now := rfl
@[simp] theorem beginSpi_freeUses (o n : Nat) : (beginSpi o n s).freeUses = s.freeUses := rfl
@[simp] theorem beginSpi_pending (o n : Nat) : (beginSpi o n s).pending = s.pending := rfl

/-! `beginPoll` -/

@[simp] theorem beginPoll_up0 (h : HingeId) : (beginPoll h s).up0 = s.up0 := rfl
@[simp] theorem beginPoll_up1 (h : HingeId) : (beginPoll h s).up1 = s.up1 := rfl
@[simp] theorem beginPoll_dn (h : HingeId) : (beginPoll h s).dn = s.dn := rfl
@[simp] theorem beginPoll_contexts (h : HingeId) : (beginPoll h s).contexts = s.contexts := rfl
@[simp] theorem beginPoll_ctrl (h : HingeId) : (beginPoll h s).ctrl = s.ctrl := rfl
@[simp] theorem beginPoll_frame (h : HingeId) : (beginPoll h s).frame = s.frame := rfl
@[simp] theorem beginPoll_engine (h : HingeId) : (beginPoll h s).engine = s.engine := rfl
@[simp] theorem beginPoll_cmd (h : HingeId) : (beginPoll h s).cmd = s.cmd := rfl
@[simp] theorem beginPoll_notice (h : HingeId) : (beginPoll h s).notice = s.notice := rfl
@[simp] theorem beginPoll_boot (h : HingeId) : (beginPoll h s).boot = s.boot := rfl
@[simp] theorem beginPoll_now (h : HingeId) : (beginPoll h s).now = s.now := rfl
@[simp] theorem beginPoll_freeUses (h : HingeId) : (beginPoll h s).freeUses = s.freeUses := rfl
@[simp] theorem beginPoll_pending (h : HingeId) : (beginPoll h s).pending = s.pending := rfl

/-! `setPort` -/

@[simp] theorem setPort_dn (p : Port) (q : PortState) : (setPort p q s).dn = s.dn := by cases p <;> rfl
@[simp] theorem setPort_contexts (p : Port) (q : PortState) : (setPort p q s).contexts = s.contexts := by cases p <;> rfl
@[simp] theorem setPort_monitor (p : Port) (q : PortState) : (setPort p q s).monitor = s.monitor := by cases p <;> rfl
@[simp] theorem setPort_ctrl (p : Port) (q : PortState) : (setPort p q s).ctrl = s.ctrl := by cases p <;> rfl
@[simp] theorem setPort_frame (p : Port) (q : PortState) : (setPort p q s).frame = s.frame := by cases p <;> rfl
@[simp] theorem setPort_engine (p : Port) (q : PortState) : (setPort p q s).engine = s.engine := by cases p <;> rfl
@[simp] theorem setPort_cmd (p : Port) (q : PortState) : (setPort p q s).cmd = s.cmd := by cases p <;> rfl
@[simp] theorem setPort_notice (p : Port) (q : PortState) : (setPort p q s).notice = s.notice := by cases p <;> rfl
@[simp] theorem setPort_boot (p : Port) (q : PortState) : (setPort p q s).boot = s.boot := by cases p <;> rfl
@[simp] theorem setPort_pins (p : Port) (q : PortState) : (setPort p q s).pins = s.pins := by cases p <;> rfl
@[simp] theorem setPort_now (p : Port) (q : PortState) : (setPort p q s).now = s.now := by cases p <;> rfl
@[simp] theorem setPort_freeUses (p : Port) (q : PortState) : (setPort p q s).freeUses = s.freeUses := by cases p <;> rfl
@[simp] theorem setPort_pending (p : Port) (q : PortState) : (setPort p q s).pending = s.pending := by cases p <;> rfl

/-! `makeReady` -/

@[simp] theorem makeReady_dn (p : Port) (r : ReadyResponse) : (makeReady p r s).dn = s.dn := by cases p <;> rfl
@[simp] theorem makeReady_contexts (p : Port) (r : ReadyResponse) : (makeReady p r s).contexts = s.contexts := by cases p <;> rfl
@[simp] theorem makeReady_monitor (p : Port) (r : ReadyResponse) : (makeReady p r s).monitor = s.monitor := by cases p <;> rfl
@[simp] theorem makeReady_ctrl (p : Port) (r : ReadyResponse) : (makeReady p r s).ctrl = s.ctrl := by cases p <;> rfl
@[simp] theorem makeReady_frame (p : Port) (r : ReadyResponse) : (makeReady p r s).frame = s.frame := by cases p <;> rfl
@[simp] theorem makeReady_engine (p : Port) (r : ReadyResponse) : (makeReady p r s).engine = s.engine := by cases p <;> rfl
@[simp] theorem makeReady_cmd (p : Port) (r : ReadyResponse) : (makeReady p r s).cmd = s.cmd := by cases p <;> rfl
@[simp] theorem makeReady_notice (p : Port) (r : ReadyResponse) : (makeReady p r s).notice = s.notice := by cases p <;> rfl
@[simp] theorem makeReady_boot (p : Port) (r : ReadyResponse) : (makeReady p r s).boot = s.boot := by cases p <;> rfl
@[simp] theorem makeReady_pins (p : Port) (r : ReadyResponse) : (makeReady p r s).pins = s.pins := by cases p <;> rfl
@[simp] theorem makeReady_now (p : Port) (r : ReadyResponse) : (makeReady p r s).now = s.now := by cases p <;> rfl
@[simp] theorem makeReady_freeUses (p : Port) (r : ReadyResponse) : (makeReady p r s).freeUses = s.freeUses := by cases p <;> rfl
@[simp] theorem makeReady_pending (p : Port) (r : ReadyResponse) : (makeReady p r s).pending = s.pending := by cases p <;> rfl

/-! `setPlace` -/

@[simp] theorem setPlace_dn (p : Port) (l : Place) : (setPlace p l s).dn = s.dn := by cases p <;> rfl
@[simp] theorem setPlace_contexts (p : Port) (l : Place) : (setPlace p l s).contexts = s.contexts := by cases p <;> rfl
@[simp] theorem setPlace_monitor (p : Port) (l : Place) : (setPlace p l s).monitor = s.monitor := by cases p <;> rfl
@[simp] theorem setPlace_ctrl (p : Port) (l : Place) : (setPlace p l s).ctrl = s.ctrl := by cases p <;> rfl
@[simp] theorem setPlace_frame (p : Port) (l : Place) : (setPlace p l s).frame = s.frame := by cases p <;> rfl
@[simp] theorem setPlace_engine (p : Port) (l : Place) : (setPlace p l s).engine = s.engine := by cases p <;> rfl
@[simp] theorem setPlace_cmd (p : Port) (l : Place) : (setPlace p l s).cmd = s.cmd := by cases p <;> rfl
@[simp] theorem setPlace_notice (p : Port) (l : Place) : (setPlace p l s).notice = s.notice := by cases p <;> rfl
@[simp] theorem setPlace_boot (p : Port) (l : Place) : (setPlace p l s).boot = s.boot := by cases p <;> rfl
@[simp] theorem setPlace_pins (p : Port) (l : Place) : (setPlace p l s).pins = s.pins := by cases p <;> rfl
@[simp] theorem setPlace_now (p : Port) (l : Place) : (setPlace p l s).now = s.now := by cases p <;> rfl
@[simp] theorem setPlace_freeUses (p : Port) (l : Place) : (setPlace p l s).freeUses = s.freeUses := by cases p <;> rfl
@[simp] theorem setPlace_pending (p : Port) (l : Place) : (setPlace p l s).pending = s.pending := by cases p <;> rfl

/-! `markTag` -/

@[simp] theorem markTag_dn (p : Port) (t : Tag) : (markTag p t s).dn = s.dn := by cases p <;> rfl
@[simp] theorem markTag_contexts (p : Port) (t : Tag) : (markTag p t s).contexts = s.contexts := by cases p <;> rfl
@[simp] theorem markTag_monitor (p : Port) (t : Tag) : (markTag p t s).monitor = s.monitor := by cases p <;> rfl
@[simp] theorem markTag_ctrl (p : Port) (t : Tag) : (markTag p t s).ctrl = s.ctrl := by cases p <;> rfl
@[simp] theorem markTag_frame (p : Port) (t : Tag) : (markTag p t s).frame = s.frame := by cases p <;> rfl
@[simp] theorem markTag_engine (p : Port) (t : Tag) : (markTag p t s).engine = s.engine := by cases p <;> rfl
@[simp] theorem markTag_cmd (p : Port) (t : Tag) : (markTag p t s).cmd = s.cmd := by cases p <;> rfl
@[simp] theorem markTag_notice (p : Port) (t : Tag) : (markTag p t s).notice = s.notice := by cases p <;> rfl
@[simp] theorem markTag_boot (p : Port) (t : Tag) : (markTag p t s).boot = s.boot := by cases p <;> rfl
@[simp] theorem markTag_pins (p : Port) (t : Tag) : (markTag p t s).pins = s.pins := by cases p <;> rfl
@[simp] theorem markTag_now (p : Port) (t : Tag) : (markTag p t s).now = s.now := by cases p <;> rfl
@[simp] theorem markTag_freeUses (p : Port) (t : Tag) : (markTag p t s).freeUses = s.freeUses := by cases p <;> rfl
@[simp] theorem markTag_pending (p : Port) (t : Tag) : (markTag p t s).pending = s.pending := by cases p <;> rfl

/-! `joinPath` -/

@[simp] theorem joinPath_dn (p : Port) (e : PathEntry) : (joinPath p e s).dn = s.dn := by cases p <;> rfl
@[simp] theorem joinPath_contexts (p : Port) (e : PathEntry) : (joinPath p e s).contexts = s.contexts := by cases p <;> rfl
@[simp] theorem joinPath_monitor (p : Port) (e : PathEntry) : (joinPath p e s).monitor = s.monitor := by cases p <;> rfl
@[simp] theorem joinPath_ctrl (p : Port) (e : PathEntry) : (joinPath p e s).ctrl = s.ctrl := by cases p <;> rfl
@[simp] theorem joinPath_frame (p : Port) (e : PathEntry) : (joinPath p e s).frame = s.frame := by cases p <;> rfl
@[simp] theorem joinPath_engine (p : Port) (e : PathEntry) : (joinPath p e s).engine = s.engine := by cases p <;> rfl
@[simp] theorem joinPath_cmd (p : Port) (e : PathEntry) : (joinPath p e s).cmd = s.cmd := by cases p <;> rfl
@[simp] theorem joinPath_notice (p : Port) (e : PathEntry) : (joinPath p e s).notice = s.notice := by cases p <;> rfl
@[simp] theorem joinPath_boot (p : Port) (e : PathEntry) : (joinPath p e s).boot = s.boot := by cases p <;> rfl
@[simp] theorem joinPath_pins (p : Port) (e : PathEntry) : (joinPath p e s).pins = s.pins := by cases p <;> rfl
@[simp] theorem joinPath_now (p : Port) (e : PathEntry) : (joinPath p e s).now = s.now := by cases p <;> rfl
@[simp] theorem joinPath_freeUses (p : Port) (e : PathEntry) : (joinPath p e s).freeUses = s.freeUses := by cases p <;> rfl
@[simp] theorem joinPath_pending (p : Port) (e : PathEntry) : (joinPath p e s).pending = s.pending := by cases p <;> rfl

/-! `popPath` -/

@[simp] theorem popPath_dn (p : Port) : (popPath p s).dn = s.dn := by cases p <;> rfl
@[simp] theorem popPath_contexts (p : Port) : (popPath p s).contexts = s.contexts := by cases p <;> rfl
@[simp] theorem popPath_monitor (p : Port) : (popPath p s).monitor = s.monitor := by cases p <;> rfl
@[simp] theorem popPath_ctrl (p : Port) : (popPath p s).ctrl = s.ctrl := by cases p <;> rfl
@[simp] theorem popPath_frame (p : Port) : (popPath p s).frame = s.frame := by cases p <;> rfl
@[simp] theorem popPath_engine (p : Port) : (popPath p s).engine = s.engine := by cases p <;> rfl
@[simp] theorem popPath_cmd (p : Port) : (popPath p s).cmd = s.cmd := by cases p <;> rfl
@[simp] theorem popPath_notice (p : Port) : (popPath p s).notice = s.notice := by cases p <;> rfl
@[simp] theorem popPath_boot (p : Port) : (popPath p s).boot = s.boot := by cases p <;> rfl
@[simp] theorem popPath_pins (p : Port) : (popPath p s).pins = s.pins := by cases p <;> rfl
@[simp] theorem popPath_now (p : Port) : (popPath p s).now = s.now := by cases p <;> rfl
@[simp] theorem popPath_freeUses (p : Port) : (popPath p s).freeUses = s.freeUses := by cases p <;> rfl
@[simp] theorem popPath_pending (p : Port) : (popPath p s).pending = s.pending := by cases p <;> rfl

/-! `abortPort` -/

@[simp] theorem abortPort_dn (p : Port) : (abortPort p s).dn = s.dn := by cases p <;> rfl
@[simp] theorem abortPort_contexts (p : Port) : (abortPort p s).contexts = s.contexts := by cases p <;> rfl
@[simp] theorem abortPort_monitor (p : Port) : (abortPort p s).monitor = s.monitor := by cases p <;> rfl
@[simp] theorem abortPort_ctrl (p : Port) : (abortPort p s).ctrl = s.ctrl := by cases p <;> rfl
@[simp] theorem abortPort_frame (p : Port) : (abortPort p s).frame = s.frame := by cases p <;> rfl
@[simp] theorem abortPort_engine (p : Port) : (abortPort p s).engine = s.engine := by cases p <;> rfl
@[simp] theorem abortPort_cmd (p : Port) : (abortPort p s).cmd = s.cmd := by cases p <;> rfl
@[simp] theorem abortPort_notice (p : Port) : (abortPort p s).notice = s.notice := by cases p <;> rfl
@[simp] theorem abortPort_boot (p : Port) : (abortPort p s).boot = s.boot := by cases p <;> rfl
@[simp] theorem abortPort_pins (p : Port) : (abortPort p s).pins = s.pins := by cases p <;> rfl
@[simp] theorem abortPort_now (p : Port) : (abortPort p s).now = s.now := by cases p <;> rfl
@[simp] theorem abortPort_freeUses (p : Port) : (abortPort p s).freeUses = s.freeUses := by cases p <;> rfl
@[simp] theorem abortPort_pending (p : Port) : (abortPort p s).pending = s.pending := by cases p <;> rfl

/-! Ports, hinges and buffers -/

@[simp] theorem portOf_setPort (p : Port) (q : PortState) : portOf p (setPort p q s) = q := by cases p <;> rfl

@[simp] theorem portOf_setPort_other {p p' : Port} (h : p' ≠ p) (q : PortState) :
    portOf p' (setPort p q s) = portOf p' s := by
  cases p <;> cases p' <;> first | rfl | exact absurd rfl h

@[simp] theorem setPort_setPort (p : Port) (q q' : PortState) : setPort p q (setPort p q' s) = setPort p q s := by
  cases p <;> rfl

@[simp] theorem setPort_portOf (p : Port) : setPort p (portOf p s) s = s := by cases p <;> rfl

@[simp] theorem bufferOf_setBuffer (b : BufferId) (t : TileBuffer) (e : Engine) : bufferOf b (setBuffer b t e) = t := by
  cases b <;> rfl

@[simp] theorem setBuffer_map (b : BufferId) (t : TileBuffer) (e : Engine) : (setBuffer b t e).map = e.map := by
  cases b <;> rfl

@[simp] theorem setBuffer_cursor (b : BufferId) (t : TileBuffer) (e : Engine) : (setBuffer b t e).cursor = e.cursor := by
  cases b <;> rfl

@[simp] theorem setBuffer_promotion (b : BufferId) (t : TileBuffer) (e : Engine) :
    (setBuffer b t e).promotion = e.promotion := by
  cases b <;> rfl

@[simp] theorem setBuffer_hold (b : BufferId) (t : TileBuffer) (e : Engine) : (setBuffer b t e).hold = e.hold := by
  cases b <;> rfl

@[simp] theorem setBuffer_lastIssuer (b : BufferId) (t : TileBuffer) (e : Engine) :
    (setBuffer b t e).lastIssuer = e.lastIssuer := by
  cases b <;> rfl

@[simp] theorem hingeOf_setHinge (h : HingeId) (g : Hinge) (m : Monitor) : hingeOf h (setHinge h g m) = g := by
  cases h <;> rfl

/-! The end of an event -/

@[simp] theorem settleOutputs_set (b : State) : (settleOutputs b s).notice.set = s.notice.set := by
  simp only [settleOutputs]; split <;> rfl

@[simp] theorem settleOutputs_counters (b : State) : (settleOutputs b s).notice.counters = s.notice.counters := by
  simp only [settleOutputs]; split <;> rfl

@[simp] theorem settleOutputs_noticeWriter (b : State) :
    (settleOutputs b s).notice.noticeWriter = s.notice.noticeWriter := by
  simp only [settleOutputs]; split <;> rfl

@[simp] theorem settleOutputs_responseNext (b : State) :
    (settleOutputs b s).notice.responseNext = s.notice.responseNext := by
  simp only [settleOutputs]; split <;> rfl

@[simp] theorem settleOutputs_responseBusy (b : State) :
    (settleOutputs b s).notice.responseBusy = s.notice.responseBusy := by
  simp only [settleOutputs]; split <;> rfl

@[simp] theorem settleOutputs_countsNext (b : State) :
    (settleOutputs b s).notice.countsNext = s.notice.countsNext := by
  simp only [settleOutputs]; split <;> rfl

@[simp] theorem settleOutputs_countsBusy (b : State) :
    (settleOutputs b s).notice.countsBusy = s.notice.countsBusy := by
  simp only [settleOutputs]; split <;> rfl

@[simp] theorem settleOutputs_frameCount (b : State) :
    (settleOutputs b s).notice.frameCount = s.notice.frameCount := by
  simp only [settleOutputs]; split <;> rfl

@[simp] theorem settleOutputs_hostWrites (b : State) :
    (settleOutputs b s).notice.hostWrites = s.notice.hostWrites := by
  simp only [settleOutputs]; split <;> rfl

@[simp] theorem settleOutputs_notify (b : State) :
    (settleOutputs b s).notice.notify = notifyLevel s.notice.set s.cmd.shadow := by
  simp only [settleOutputs]; split <;> rfl

/-! Outcomes -/

@[simp] theorem happens_eq_next (b t : State) : happens b s = .next t ↔ settleOutputs b s = t := by
  simp [happens]

theorem whileReleased_next {k : Host.Outcome State Fault Refusal} {t : State} :
    whileReleased s k = .next t ↔ s.pins.resetAsserted = false ∧ k = .next t := by
  unfold whileReleased; cases s.pins.resetAsserted <;> simp

/-- An event at a time leaves what the event leaves on the advanced clock, once the outputs have settled. -/
theorem atTime_next {t : Nat} {event : State → State} {u : State} :
    atTime t s event = .next u ↔ noneDueBefore t s = true ∧ settleOutputs s (event (clockAt t s)) = u := by
  unfold atTime; cases noneDueBefore t s <;> simp [happens]

/-- An examined answer was due to the oldest request in flight, fits it, and leaves what its meaning leaves. -/
theorem withAnswer_next {a : Answer} {k : InFlight → Option State} {u : State} :
    withAnswer a s k = .next u ↔
      ∃ f fs v, s.dn.inFlight = f :: fs ∧ answerDiscarded s f = false ∧ answerFits f.request.body a = true
        ∧ k f = some v ∧ settleOutputs s v = u := by
  unfold withAnswer
  split
  next h => simp [h]
  next f fs h =>
    cases hd : answerDiscarded s f <;> cases hf : answerFits f.request.body a <;> simp [h, hd, hf]
    cases hk : k f <;> simp [happens]

end Sys2Proof.Machine
end

