-- ==== Sys2Proof/Laws/Frames.lean ====
section
/-!
SUPPORT. What each shared operation leaves unchanged: for every operation one lemma over the blocks it does not own, whose
parts are rewrite rules.
-/
namespace Sys2Proof.Machine

/-- A fold of steps that each leave a part of the state unchanged leaves it unchanged. -/
theorem foldl_keeps {α β : Type} (g : State → β) (f : State → α → State) (h : ∀ s a, g (f s a) = g s) (l : List α) :
    ∀ s, g (l.foldl f s) = g s := by
  induction l with
  | nil => intro s; rfl
  | cons a l ih => intro s; rw [List.foldl_cons, ih, h]

variable (s : State)

/-! ## Relocation -/

@[simp] theorem promoteTile_keeps (t : Tile) :
    (promoteTile t s).up0 = s.up0 ∧ (promoteTile t s).up1 = s.up1 ∧ (promoteTile t s).dn = s.dn ∧
    (promoteTile t s).contexts = s.contexts ∧ (promoteTile t s).monitor = s.monitor ∧
    (promoteTile t s).ctrl = s.ctrl ∧ (promoteTile t s).frame = s.frame ∧ (promoteTile t s).cmd = s.cmd ∧
    (promoteTile t s).boot = s.boot ∧ (promoteTile t s).pins = s.pins ∧ (promoteTile t s).now = s.now ∧
    (promoteTile t s).freeUses = s.freeUses ∧ (promoteTile t s).pending = s.pending := by
  unfold promoteTile; (repeat' split) <;> simp

@[simp] theorem promoteTiles_keeps (ts : List BankTile) :
    (promoteTiles ts s).up0 = s.up0 ∧ (promoteTiles ts s).up1 = s.up1 ∧ (promoteTiles ts s).dn = s.dn ∧
    (promoteTiles ts s).contexts = s.contexts ∧ (promoteTiles ts s).monitor = s.monitor ∧
    (promoteTiles ts s).ctrl = s.ctrl ∧ (promoteTiles ts s).frame = s.frame ∧ (promoteTiles ts s).cmd = s.cmd ∧
    (promoteTiles ts s).boot = s.boot ∧ (promoteTiles ts s).pins = s.pins ∧ (promoteTiles ts s).now = s.now ∧
    (promoteTiles ts s).freeUses = s.freeUses ∧ (promoteTiles ts s).pending = s.pending := by
  unfold promoteTiles
  refine ⟨foldl_keeps State.up0 _ (fun t a => by simp) _ _, foldl_keeps State.up1 _ (fun t a => by simp) _ _, foldl_keeps State.dn _ (fun t a => by simp) _ _, foldl_keeps State.contexts _ (fun t a => by simp) _ _, foldl_keeps State.monitor _ (fun t a => by simp) _ _, foldl_keeps State.ctrl _ (fun t a => by simp) _ _, foldl_keeps State.frame _ (fun t a => by simp) _ _, foldl_keeps State.cmd _ (fun t a => by simp) _ _, foldl_keeps State.boot _ (fun t a => by simp) _ _, foldl_keeps State.pins _ (fun t a => by simp) _ _, foldl_keeps State.now _ (fun t a => by simp) _ _, foldl_keeps State.freeUses _ (fun t a => by simp) _ _, foldl_keeps State.pending _ (fun t a => by simp) _ _⟩

@[simp] theorem promoteHeld_keeps :
    (promoteHeld s).up0 = s.up0 ∧ (promoteHeld s).up1 = s.up1 ∧ (promoteHeld s).dn = s.dn ∧
    (promoteHeld s).contexts = s.contexts ∧ (promoteHeld s).monitor = s.monitor ∧ (promoteHeld s).ctrl = s.ctrl ∧
    (promoteHeld s).frame = s.frame ∧ (promoteHeld s).cmd = s.cmd ∧ (promoteHeld s).boot = s.boot ∧
    (promoteHeld s).pins = s.pins ∧ (promoteHeld s).now = s.now ∧ (promoteHeld s).freeUses = s.freeUses ∧
    (promoteHeld s).pending = s.pending := by
  unfold promoteHeld
  refine ⟨foldl_keeps State.up0 _ (fun t k => by split <;> simp) _ _, foldl_keeps State.up1 _ (fun t k => by split <;> simp) _ _, foldl_keeps State.dn _ (fun t k => by split <;> simp) _ _, foldl_keeps State.contexts _ (fun t k => by split <;> simp) _ _, foldl_keeps State.monitor _ (fun t k => by split <;> simp) _ _, foldl_keeps State.ctrl _ (fun t k => by split <;> simp) _ _, foldl_keeps State.frame _ (fun t k => by split <;> simp) _ _, foldl_keeps State.cmd _ (fun t k => by split <;> simp) _ _, foldl_keeps State.boot _ (fun t k => by split <;> simp) _ _, foldl_keeps State.pins _ (fun t k => by split <;> simp) _ _, foldl_keeps State.now _ (fun t k => by split <;> simp) _ _, foldl_keeps State.freeUses _ (fun t k => by split <;> simp) _ _, foldl_keeps State.pending _ (fun t k => by split <;> simp) _ _⟩

@[simp] theorem startTile_keeps (b : BufferId) (t : Tile) :
    (startTile b t s).up0 = s.up0 ∧ (startTile b t s).up1 = s.up1 ∧ (startTile b t s).dn = s.dn ∧
    (startTile b t s).contexts = s.contexts ∧ (startTile b t s).monitor = s.monitor ∧
    (startTile b t s).ctrl = s.ctrl ∧ (startTile b t s).frame = s.frame ∧ (startTile b t s).cmd = s.cmd ∧
    (startTile b t s).notice = s.notice ∧ (startTile b t s).boot = s.boot ∧ (startTile b t s).pins = s.pins ∧
    (startTile b t s).now = s.now ∧ (startTile b t s).freeUses = s.freeUses ∧ (startTile b t s).pending = s.pending := by
  unfold startTile; (repeat' split) <;> simp

@[simp] theorem takeTile_keeps (b : BufferId) :
    (takeTile b s).up0 = s.up0 ∧ (takeTile b s).up1 = s.up1 ∧ (takeTile b s).dn = s.dn ∧
    (takeTile b s).contexts = s.contexts ∧ (takeTile b s).monitor = s.monitor ∧ (takeTile b s).ctrl = s.ctrl ∧
    (takeTile b s).frame = s.frame ∧ (takeTile b s).cmd = s.cmd ∧ (takeTile b s).boot = s.boot ∧
    (takeTile b s).pins = s.pins ∧ (takeTile b s).now = s.now ∧ (takeTile b s).freeUses = s.freeUses ∧
    (takeTile b s).pending = s.pending := by
  unfold takeTile; (repeat' split) <;> simp

@[simp] theorem takeTiles_keeps :
    (takeTiles s).up0 = s.up0 ∧ (takeTiles s).up1 = s.up1 ∧ (takeTiles s).dn = s.dn ∧
    (takeTiles s).contexts = s.contexts ∧ (takeTiles s).monitor = s.monitor ∧ (takeTiles s).ctrl = s.ctrl ∧
    (takeTiles s).frame = s.frame ∧ (takeTiles s).cmd = s.cmd ∧ (takeTiles s).boot = s.boot ∧
    (takeTiles s).pins = s.pins ∧ (takeTiles s).now = s.now ∧ (takeTiles s).freeUses = s.freeUses ∧
    (takeTiles s).pending = s.pending := by
  simp [takeTiles]

@[simp] theorem releaseHeld_keeps :
    (releaseHeld s).dn = s.dn ∧ (releaseHeld s).contexts = s.contexts ∧ (releaseHeld s).monitor = s.monitor ∧
    (releaseHeld s).ctrl = s.ctrl ∧ (releaseHeld s).frame = s.frame ∧ (releaseHeld s).cmd = s.cmd ∧
    (releaseHeld s).notice = s.notice ∧ (releaseHeld s).boot = s.boot ∧ (releaseHeld s).pins = s.pins ∧
    (releaseHeld s).now = s.now ∧ (releaseHeld s).freeUses = s.freeUses ∧ (releaseHeld s).pending = s.pending := by
  unfold releaseHeld
  refine ⟨foldl_keeps State.dn _ (fun t a => by simp) _ _, foldl_keeps State.contexts _ (fun t a => by simp) _ _, foldl_keeps State.monitor _ (fun t a => by simp) _ _, foldl_keeps State.ctrl _ (fun t a => by simp) _ _, foldl_keeps State.frame _ (fun t a => by simp) _ _, foldl_keeps State.cmd _ (fun t a => by simp) _ _, foldl_keeps State.notice _ (fun t a => by simp) _ _, foldl_keeps State.boot _ (fun t a => by simp) _ _, foldl_keeps State.pins _ (fun t a => by simp) _ _, foldl_keeps State.now _ (fun t a => by simp) _ _, foldl_keeps State.freeUses _ (fun t a => by simp) _ _, foldl_keeps State.pending _ (fun t a => by simp) _ _⟩

@[simp] theorem enterHold_keeps (k : Key) (ts : List BankTile) :
    (enterHold k ts s).up0 = s.up0 ∧ (enterHold k ts s).up1 = s.up1 ∧ (enterHold k ts s).dn = s.dn ∧
    (enterHold k ts s).contexts = s.contexts ∧ (enterHold k ts s).monitor = s.monitor ∧
    (enterHold k ts s).ctrl = s.ctrl ∧ (enterHold k ts s).frame = s.frame ∧ (enterHold k ts s).cmd = s.cmd ∧
    (enterHold k ts s).boot = s.boot ∧ (enterHold k ts s).pins = s.pins ∧ (enterHold k ts s).now = s.now ∧
    (enterHold k ts s).freeUses = s.freeUses ∧ (enterHold k ts s).pending = s.pending := by
  simp [enterHold]

/-! ## Transition -/

@[simp] theorem beginTransition_keeps (d : DrainKind) (r : RecordCopy) (o : Option RecordCopy) :
    (beginTransition d r o s).up0 = s.up0 ∧ (beginTransition d r o s).up1 = s.up1 ∧
    (beginTransition d r o s).dn = s.dn ∧ (beginTransition d r o s).contexts = s.contexts ∧
    (beginTransition d r o s).monitor = s.monitor ∧ (beginTransition d r o s).frame = s.frame ∧
    (beginTransition d r o s).cmd = s.cmd ∧ (beginTransition d r o s).boot = s.boot ∧
    (beginTransition d r o s).pins = s.pins ∧ (beginTransition d r o s).now = s.now ∧
    (beginTransition d r o s).freeUses = s.freeUses ∧ (beginTransition d r o s).pending = s.pending := by
  simp [beginTransition]

@[simp] theorem commitRecord_keeps (t : Table) (r : LayoutRecord) :
    (commitRecord t r s).up0 = s.up0 ∧ (commitRecord t r s).up1 = s.up1 ∧ (commitRecord t r s).dn = s.dn ∧
    (commitRecord t r s).contexts = s.contexts ∧ (commitRecord t r s).monitor = s.monitor ∧
    (commitRecord t r s).frame = s.frame ∧ (commitRecord t r s).cmd = s.cmd ∧ (commitRecord t r s).boot = s.boot ∧
    (commitRecord t r s).pins = s.pins ∧ (commitRecord t r s).now = s.now ∧
    (commitRecord t r s).freeUses = s.freeUses ∧ (commitRecord t r s).pending = s.pending := by
  simp [commitRecord]

@[simp] theorem commitLayout_keeps (n : Nat) :
    (commitLayout n s).up0 = s.up0 ∧ (commitLayout n s).up1 = s.up1 ∧ (commitLayout n s).dn = s.dn ∧
    (commitLayout n s).contexts = s.contexts ∧ (commitLayout n s).monitor = s.monitor ∧
    (commitLayout n s).frame = s.frame ∧ (commitLayout n s).cmd = s.cmd ∧ (commitLayout n s).boot = s.boot ∧
    (commitLayout n s).pins = s.pins ∧ (commitLayout n s).now = s.now ∧ (commitLayout n s).freeUses = s.freeUses ∧
    (commitLayout n s).pending = s.pending := by
  unfold commitLayout; (repeat' split) <;> simp

@[simp] theorem resolveSlot_keeps :
    (resolveSlot s).up0 = s.up0 ∧ (resolveSlot s).up1 = s.up1 ∧ (resolveSlot s).dn = s.dn ∧
    (resolveSlot s).contexts = s.contexts ∧ (resolveSlot s).monitor = s.monitor ∧ (resolveSlot s).frame = s.frame ∧
    (resolveSlot s).cmd = s.cmd ∧ (resolveSlot s).boot = s.boot ∧ (resolveSlot s).pins = s.pins ∧
    (resolveSlot s).now = s.now ∧ (resolveSlot s).freeUses = s.freeUses ∧ (resolveSlot s).pending = s.pending := by
  unfold resolveSlot; (repeat' split) <;> simp

@[simp] theorem flip_keeps :
    (flip s).up0 = s.up0 ∧ (flip s).up1 = s.up1 ∧ (flip s).dn = s.dn ∧ (flip s).contexts = s.contexts ∧
    (flip s).monitor = s.monitor ∧ (flip s).frame = s.frame ∧ (flip s).cmd = s.cmd ∧ (flip s).boot = s.boot ∧
    (flip s).pins = s.pins ∧ (flip s).now = s.now ∧ (flip s).freeUses = s.freeUses ∧ (flip s).pending = s.pending := by
  simp [flip]

@[simp] theorem completionTest_keeps :
    (completionTest s).up0 = s.up0 ∧ (completionTest s).up1 = s.up1 ∧ (completionTest s).dn = s.dn ∧
    (completionTest s).contexts = s.contexts ∧ (completionTest s).monitor = s.monitor ∧
    (completionTest s).frame = s.frame ∧ (completionTest s).cmd = s.cmd ∧ (completionTest s).boot = s.boot ∧
    (completionTest s).pins = s.pins ∧ (completionTest s).now = s.now ∧ (completionTest s).freeUses = s.freeUses ∧
    (completionTest s).pending = s.pending := by
  unfold completionTest; (try dsimp only); (repeat' split) <;> simp

@[simp] theorem enterRelocating_keeps :
    (enterRelocating s).up0 = s.up0 ∧ (enterRelocating s).up1 = s.up1 ∧ (enterRelocating s).dn = s.dn ∧
    (enterRelocating s).contexts = s.contexts ∧ (enterRelocating s).monitor = s.monitor ∧
    (enterRelocating s).frame = s.frame ∧ (enterRelocating s).cmd = s.cmd ∧ (enterRelocating s).boot = s.boot ∧
    (enterRelocating s).pins = s.pins ∧ (enterRelocating s).now = s.now ∧ (enterRelocating s).freeUses = s.freeUses ∧
    (enterRelocating s).pending = s.pending := by
  simp [enterRelocating]

@[simp] theorem leaveOldWrites_keeps (k : Key) :
    (leaveOldWrites k s).up0 = s.up0 ∧ (leaveOldWrites k s).up1 = s.up1 ∧ (leaveOldWrites k s).dn = s.dn ∧
    (leaveOldWrites k s).contexts = s.contexts ∧ (leaveOldWrites k s).monitor = s.monitor ∧
    (leaveOldWrites k s).frame = s.frame ∧ (leaveOldWrites k s).cmd = s.cmd ∧ (leaveOldWrites k s).boot = s.boot ∧
    (leaveOldWrites k s).pins = s.pins ∧ (leaveOldWrites k s).now = s.now ∧
    (leaveOldWrites k s).freeUses = s.freeUses ∧ (leaveOldWrites k s).pending = s.pending := by
  unfold leaveOldWrites; (try dsimp only); (repeat' split) <;> simp

@[simp] theorem slotRequest_keeps (c : Option Nat) (n : Nat) :
    (slotRequest c n s).up0 = s.up0 ∧ (slotRequest c n s).up1 = s.up1 ∧ (slotRequest c n s).dn = s.dn ∧
    (slotRequest c n s).contexts = s.contexts ∧ (slotRequest c n s).monitor = s.monitor ∧
    (slotRequest c n s).frame = s.frame ∧ (slotRequest c n s).engine = s.engine ∧ (slotRequest c n s).cmd = s.cmd ∧
    (slotRequest c n s).boot = s.boot ∧ (slotRequest c n s).pins = s.pins ∧ (slotRequest c n s).now = s.now ∧
    (slotRequest c n s).freeUses = s.freeUses ∧ (slotRequest c n s).pending = s.pending := by
  unfold slotRequest; (repeat' split) <;> simp

@[simp] theorem layoutRequest_keeps (n : Nat) :
    (layoutRequest n s).up0 = s.up0 ∧ (layoutRequest n s).up1 = s.up1 ∧ (layoutRequest n s).dn = s.dn ∧
    (layoutRequest n s).contexts = s.contexts ∧ (layoutRequest n s).monitor = s.monitor ∧
    (layoutRequest n s).frame = s.frame ∧ (layoutRequest n s).cmd = s.cmd ∧ (layoutRequest n s).boot = s.boot ∧
    (layoutRequest n s).pins = s.pins ∧ (layoutRequest n s).now = s.now ∧ (layoutRequest n s).freeUses = s.freeUses ∧
    (layoutRequest n s).pending = s.pending := by
  unfold layoutRequest; (repeat' split) <;> simp

@[simp] theorem endLoadReplaced_keeps (t : Table) :
    (endLoadReplaced t s).up0 = s.up0 ∧ (endLoadReplaced t s).up1 = s.up1 ∧ (endLoadReplaced t s).dn = s.dn ∧
    (endLoadReplaced t s).contexts = s.contexts ∧ (endLoadReplaced t s).monitor = s.monitor ∧
    (endLoadReplaced t s).frame = s.frame ∧ (endLoadReplaced t s).cmd = s.cmd ∧ (endLoadReplaced t s).boot = s.boot ∧
    (endLoadReplaced t s).pins = s.pins ∧ (endLoadReplaced t s).now = s.now ∧
    (endLoadReplaced t s).freeUses = s.freeUses ∧ (endLoadReplaced t s).pending = s.pending := by
  unfold endLoadReplaced; (try dsimp only); (repeat' split) <;> simp

@[simp] theorem endLoadKept_keeps :
    (endLoadKept s).up0 = s.up0 ∧ (endLoadKept s).up1 = s.up1 ∧ (endLoadKept s).dn = s.dn ∧
    (endLoadKept s).contexts = s.contexts ∧ (endLoadKept s).monitor = s.monitor ∧ (endLoadKept s).frame = s.frame ∧
    (endLoadKept s).cmd = s.cmd ∧ (endLoadKept s).boot = s.boot ∧ (endLoadKept s).pins = s.pins ∧
    (endLoadKept s).now = s.now ∧ (endLoadKept s).freeUses = s.freeUses ∧ (endLoadKept s).pending = s.pending := by
  simp [endLoadKept]

@[simp] theorem bootCommit_keeps :
    (bootCommit s).up0 = s.up0 ∧ (bootCommit s).up1 = s.up1 ∧ (bootCommit s).dn = s.dn ∧
    (bootCommit s).contexts = s.contexts ∧ (bootCommit s).monitor = s.monitor ∧ (bootCommit s).frame = s.frame ∧
    (bootCommit s).cmd = s.cmd ∧ (bootCommit s).boot = s.boot ∧ (bootCommit s).pins = s.pins ∧
    (bootCommit s).now = s.now ∧ (bootCommit s).freeUses = s.freeUses ∧ (bootCommit s).pending = s.pending := by
  simp [bootCommit]

@[simp] theorem restartCommit_keeps :
    (restartCommit s).up0 = s.up0 ∧ (restartCommit s).up1 = s.up1 ∧ (restartCommit s).dn = s.dn ∧
    (restartCommit s).contexts = s.contexts ∧ (restartCommit s).monitor = s.monitor ∧
    (restartCommit s).frame = s.frame ∧ (restartCommit s).cmd = s.cmd ∧ (restartCommit s).boot = s.boot ∧
    (restartCommit s).pins = s.pins ∧ (restartCommit s).now = s.now ∧ (restartCommit s).freeUses = s.freeUses ∧
    (restartCommit s).pending = s.pending := by
  simp [restartCommit]

/-! ## Ops -/

@[simp] theorem reportForwarded_keeps (p : Port) (r : Request) (ds : List Pixel) :
    (reportForwarded p r ds s).up0 = s.up0 ∧ (reportForwarded p r ds s).up1 = s.up1 ∧
    (reportForwarded p r ds s).dn = s.dn ∧ (reportForwarded p r ds s).contexts = s.contexts ∧
    (reportForwarded p r ds s).monitor = s.monitor ∧ (reportForwarded p r ds s).ctrl = s.ctrl ∧
    (reportForwarded p r ds s).frame = s.frame ∧ (reportForwarded p r ds s).engine = s.engine ∧
    (reportForwarded p r ds s).cmd = s.cmd ∧ (reportForwarded p r ds s).boot = s.boot ∧
    (reportForwarded p r ds s).pins = s.pins ∧ (reportForwarded p r ds s).now = s.now ∧
    (reportForwarded p r ds s).freeUses = s.freeUses ∧ (reportForwarded p r ds s).pending = s.pending := by
  unfold reportForwarded; (repeat' split) <;> simp

@[simp] theorem reportSent_keeps (p : Port) (r : ReadyResponse) :
    (reportSent p r s).up0 = s.up0 ∧ (reportSent p r s).up1 = s.up1 ∧ (reportSent p r s).dn = s.dn ∧
    (reportSent p r s).contexts = s.contexts ∧ (reportSent p r s).monitor = s.monitor ∧
    (reportSent p r s).ctrl = s.ctrl ∧ (reportSent p r s).frame = s.frame ∧ (reportSent p r s).engine = s.engine ∧
    (reportSent p r s).cmd = s.cmd ∧ (reportSent p r s).boot = s.boot ∧ (reportSent p r s).pins = s.pins ∧
    (reportSent p r s).now = s.now ∧ (reportSent p r s).freeUses = s.freeUses ∧ (reportSent p r s).pending = s.pending := by
  unfold reportSent; (repeat' split) <;> simp

@[simp] theorem abortWaiting_keeps :
    (abortWaiting s).dn = s.dn ∧ (abortWaiting s).monitor = s.monitor ∧ (abortWaiting s).ctrl = s.ctrl ∧
    (abortWaiting s).frame = s.frame ∧ (abortWaiting s).cmd = s.cmd ∧ (abortWaiting s).notice = s.notice ∧
    (abortWaiting s).boot = s.boot ∧ (abortWaiting s).pins = s.pins ∧ (abortWaiting s).now = s.now ∧
    (abortWaiting s).freeUses = s.freeUses ∧ (abortWaiting s).pending = s.pending := by
  simp [abortWaiting]

@[simp] theorem abortAfterTag_keeps (p : Port) (t : Tag) :
    (abortAfterTag p t s).dn = s.dn ∧ (abortAfterTag p t s).contexts = s.contexts ∧
    (abortAfterTag p t s).monitor = s.monitor ∧ (abortAfterTag p t s).ctrl = s.ctrl ∧
    (abortAfterTag p t s).frame = s.frame ∧ (abortAfterTag p t s).engine = s.engine ∧
    (abortAfterTag p t s).cmd = s.cmd ∧ (abortAfterTag p t s).notice = s.notice ∧
    (abortAfterTag p t s).boot = s.boot ∧ (abortAfterTag p t s).pins = s.pins ∧ (abortAfterTag p t s).now = s.now ∧
    (abortAfterTag p t s).freeUses = s.freeUses ∧ (abortAfterTag p t s).pending = s.pending := by
  unfold abortAfterTag; (repeat' split) <;> simp

@[simp] theorem sendResponse_keeps (p : Port) (r : ReadyResponse) :
    (sendResponse p r s).dn = s.dn ∧ (sendResponse p r s).monitor = s.monitor ∧ (sendResponse p r s).frame = s.frame ∧
    (sendResponse p r s).cmd = s.cmd ∧ (sendResponse p r s).boot = s.boot ∧ (sendResponse p r s).pins = s.pins ∧
    (sendResponse p r s).now = s.now ∧ (sendResponse p r s).freeUses = s.freeUses ∧
    (sendResponse p r s).pending = s.pending := by
  simp [sendResponse]

/-! ## Monitor -/

@[simp] theorem continueRound_keeps (h : HingeId) :
    (continueRound h s).up0 = s.up0 ∧ (continueRound h s).up1 = s.up1 ∧ (continueRound h s).dn = s.dn ∧
    (continueRound h s).contexts = s.contexts ∧ (continueRound h s).ctrl = s.ctrl ∧
    (continueRound h s).frame = s.frame ∧ (continueRound h s).engine = s.engine ∧ (continueRound h s).cmd = s.cmd ∧
    (continueRound h s).notice = s.notice ∧ (continueRound h s).boot = s.boot ∧ (continueRound h s).now = s.now ∧
    (continueRound h s).freeUses = s.freeUses ∧ (continueRound h s).pending = s.pending := by
  cases h <;> simp [continueRound]

@[simp] theorem noticeHinge_keeps (a b : HingeState) :
    (noticeHinge a b s).up0 = s.up0 ∧ (noticeHinge a b s).up1 = s.up1 ∧ (noticeHinge a b s).dn = s.dn ∧
    (noticeHinge a b s).contexts = s.contexts ∧ (noticeHinge a b s).monitor = s.monitor ∧
    (noticeHinge a b s).ctrl = s.ctrl ∧ (noticeHinge a b s).frame = s.frame ∧ (noticeHinge a b s).engine = s.engine ∧
    (noticeHinge a b s).cmd = s.cmd ∧ (noticeHinge a b s).boot = s.boot ∧ (noticeHinge a b s).pins = s.pins ∧
    (noticeHinge a b s).now = s.now ∧ (noticeHinge a b s).freeUses = s.freeUses ∧
    (noticeHinge a b s).pending = s.pending := by
  unfold noticeHinge; (repeat' split) <;> simp

@[simp] theorem checkFallback_keeps :
    (checkFallback s).up0 = s.up0 ∧ (checkFallback s).up1 = s.up1 ∧ (checkFallback s).dn = s.dn ∧
    (checkFallback s).contexts = s.contexts ∧ (checkFallback s).ctrl = s.ctrl ∧ (checkFallback s).frame = s.frame ∧
    (checkFallback s).engine = s.engine ∧ (checkFallback s).cmd = s.cmd ∧ (checkFallback s).notice = s.notice ∧
    (checkFallback s).boot = s.boot ∧ (checkFallback s).pins = s.pins ∧ (checkFallback s).now = s.now ∧
    (checkFallback s).freeUses = s.freeUses ∧ (checkFallback s).pending = s.pending := by
  unfold checkFallback; (repeat' split) <;> simp

@[simp] theorem startSettle_keeps (t : Table) (n : Nat) :
    (startSettle t n s).up0 = s.up0 ∧ (startSettle t n s).up1 = s.up1 ∧ (startSettle t n s).dn = s.dn ∧
    (startSettle t n s).contexts = s.contexts ∧ (startSettle t n s).ctrl = s.ctrl ∧
    (startSettle t n s).frame = s.frame ∧ (startSettle t n s).engine = s.engine ∧ (startSettle t n s).cmd = s.cmd ∧
    (startSettle t n s).notice = s.notice ∧ (startSettle t n s).boot = s.boot ∧ (startSettle t n s).pins = s.pins ∧
    (startSettle t n s).now = s.now ∧ (startSettle t n s).freeUses = s.freeUses ∧
    (startSettle t n s).pending = s.pending := by
  unfold startSettle; (repeat' split) <;> simp

@[simp] theorem settleOnMatch_keeps (t : Table) (i c : Option Nat) :
    (settleOnMatch t i c s).up0 = s.up0 ∧ (settleOnMatch t i c s).up1 = s.up1 ∧ (settleOnMatch t i c s).dn = s.dn ∧
    (settleOnMatch t i c s).contexts = s.contexts ∧ (settleOnMatch t i c s).ctrl = s.ctrl ∧
    (settleOnMatch t i c s).frame = s.frame ∧ (settleOnMatch t i c s).engine = s.engine ∧
    (settleOnMatch t i c s).cmd = s.cmd ∧ (settleOnMatch t i c s).notice = s.notice ∧
    (settleOnMatch t i c s).boot = s.boot ∧ (settleOnMatch t i c s).pins = s.pins ∧
    (settleOnMatch t i c s).now = s.now ∧ (settleOnMatch t i c s).freeUses = s.freeUses ∧
    (settleOnMatch t i c s).pending = s.pending := by
  unfold settleOnMatch; (repeat' split) <;> simp

@[simp] theorem runMatching_keeps :
    (runMatching s).up0 = s.up0 ∧ (runMatching s).up1 = s.up1 ∧ (runMatching s).dn = s.dn ∧
    (runMatching s).contexts = s.contexts ∧ (runMatching s).ctrl = s.ctrl ∧ (runMatching s).frame = s.frame ∧
    (runMatching s).engine = s.engine ∧ (runMatching s).cmd = s.cmd ∧ (runMatching s).notice = s.notice ∧
    (runMatching s).boot = s.boot ∧ (runMatching s).pins = s.pins ∧ (runMatching s).now = s.now ∧
    (runMatching s).freeUses = s.freeUses ∧ (runMatching s).pending = s.pending := by
  unfold runMatching; (try dsimp only); (repeat' split) <;> simp

@[simp] theorem updateHinge_keeps (h : HingeId) (g : Hinge) :
    (updateHinge h g s).up0 = s.up0 ∧ (updateHinge h g s).up1 = s.up1 ∧ (updateHinge h g s).dn = s.dn ∧
    (updateHinge h g s).contexts = s.contexts ∧ (updateHinge h g s).ctrl = s.ctrl ∧
    (updateHinge h g s).frame = s.frame ∧ (updateHinge h g s).engine = s.engine ∧ (updateHinge h g s).cmd = s.cmd ∧
    (updateHinge h g s).boot = s.boot ∧ (updateHinge h g s).pins = s.pins ∧ (updateHinge h g s).now = s.now ∧
    (updateHinge h g s).freeUses = s.freeUses ∧ (updateHinge h g s).pending = s.pending := by
  unfold updateHinge; (try dsimp only); (repeat' split) <;> simp

@[simp] theorem pollMiss_keeps (h : HingeId) :
    (pollMiss h s).up0 = s.up0 ∧ (pollMiss h s).up1 = s.up1 ∧ (pollMiss h s).dn = s.dn ∧
    (pollMiss h s).contexts = s.contexts ∧ (pollMiss h s).ctrl = s.ctrl ∧ (pollMiss h s).frame = s.frame ∧
    (pollMiss h s).engine = s.engine ∧ (pollMiss h s).cmd = s.cmd ∧ (pollMiss h s).boot = s.boot ∧
    (pollMiss h s).pins = s.pins ∧ (pollMiss h s).now = s.now ∧ (pollMiss h s).freeUses = s.freeUses ∧
    (pollMiss h s).pending = s.pending := by
  simp [pollMiss]

@[simp] theorem pollValid_keeps (h : HingeId) (a : Nat) :
    (pollValid h a s).up0 = s.up0 ∧ (pollValid h a s).up1 = s.up1 ∧ (pollValid h a s).dn = s.dn ∧
    (pollValid h a s).contexts = s.contexts ∧ (pollValid h a s).ctrl = s.ctrl ∧ (pollValid h a s).frame = s.frame ∧
    (pollValid h a s).engine = s.engine ∧ (pollValid h a s).cmd = s.cmd ∧ (pollValid h a s).boot = s.boot ∧
    (pollValid h a s).pins = s.pins ∧ (pollValid h a s).now = s.now ∧ (pollValid h a s).freeUses = s.freeUses ∧
    (pollValid h a s).pending = s.pending := by
  unfold pollValid; (try dsimp only); (repeat' split) <;> simp

@[simp] theorem pollReply_keeps (h : HingeId) (f : ReplyFrame) :
    (pollReply h f s).up0 = s.up0 ∧ (pollReply h f s).up1 = s.up1 ∧ (pollReply h f s).dn = s.dn ∧
    (pollReply h f s).contexts = s.contexts ∧ (pollReply h f s).ctrl = s.ctrl ∧ (pollReply h f s).frame = s.frame ∧
    (pollReply h f s).engine = s.engine ∧ (pollReply h f s).cmd = s.cmd ∧ (pollReply h f s).boot = s.boot ∧
    (pollReply h f s).pins = s.pins ∧ (pollReply h f s).now = s.now ∧ (pollReply h f s).freeUses = s.freeUses ∧
    (pollReply h f s).pending = s.pending := by
  unfold pollReply; (repeat' split) <;> simp

@[simp] theorem settleExpires_keeps (n : Nat) :
    (settleExpires n s).up0 = s.up0 ∧ (settleExpires n s).up1 = s.up1 ∧ (settleExpires n s).dn = s.dn ∧
    (settleExpires n s).contexts = s.contexts ∧ (settleExpires n s).frame = s.frame ∧
    (settleExpires n s).cmd = s.cmd ∧ (settleExpires n s).boot = s.boot ∧ (settleExpires n s).pins = s.pins ∧
    (settleExpires n s).now = s.now ∧ (settleExpires n s).freeUses = s.freeUses ∧
    (settleExpires n s).pending = s.pending := by
  unfold settleExpires; (try dsimp only); (repeat' split) <;> simp

@[simp] theorem fallbackExpires_keeps :
    (fallbackExpires s).up0 = s.up0 ∧ (fallbackExpires s).up1 = s.up1 ∧ (fallbackExpires s).dn = s.dn ∧
    (fallbackExpires s).contexts = s.contexts ∧ (fallbackExpires s).frame = s.frame ∧
    (fallbackExpires s).cmd = s.cmd ∧ (fallbackExpires s).boot = s.boot ∧ (fallbackExpires s).pins = s.pins ∧
    (fallbackExpires s).now = s.now ∧ (fallbackExpires s).freeUses = s.freeUses ∧
    (fallbackExpires s).pending = s.pending := by
  unfold fallbackExpires; (try dsimp only); (repeat' split) <;> simp

@[simp] theorem monitorForce_keeps (n : Nat) :
    (monitorForce n s).up0 = s.up0 ∧ (monitorForce n s).up1 = s.up1 ∧ (monitorForce n s).dn = s.dn ∧
    (monitorForce n s).contexts = s.contexts ∧ (monitorForce n s).frame = s.frame ∧ (monitorForce n s).cmd = s.cmd ∧
    (monitorForce n s).boot = s.boot ∧ (monitorForce n s).pins = s.pins ∧ (monitorForce n s).now = s.now ∧
    (monitorForce n s).freeUses = s.freeUses ∧ (monitorForce n s).pending = s.pending := by
  simp [monitorForce]

@[simp] theorem monitorRelease_keeps :
    (monitorRelease s).up0 = s.up0 ∧ (monitorRelease s).up1 = s.up1 ∧ (monitorRelease s).dn = s.dn ∧
    (monitorRelease s).contexts = s.contexts ∧ (monitorRelease s).ctrl = s.ctrl ∧ (monitorRelease s).frame = s.frame ∧
    (monitorRelease s).engine = s.engine ∧ (monitorRelease s).cmd = s.cmd ∧ (monitorRelease s).notice = s.notice ∧
    (monitorRelease s).boot = s.boot ∧ (monitorRelease s).pins = s.pins ∧ (monitorRelease s).now = s.now ∧
    (monitorRelease s).freeUses = s.freeUses ∧ (monitorRelease s).pending = s.pending := by
  unfold monitorRelease; (try dsimp only); (repeat' split) <;> simp

/-! ## Command -/

@[simp] theorem beginLoad_keeps (q : Byte) :
    (beginLoad q s).up0 = s.up0 ∧ (beginLoad q s).up1 = s.up1 ∧ (beginLoad q s).dn = s.dn ∧
    (beginLoad q s).contexts = s.contexts ∧ (beginLoad q s).monitor = s.monitor ∧ (beginLoad q s).frame = s.frame ∧
    (beginLoad q s).engine = s.engine ∧ (beginLoad q s).notice = s.notice ∧ (beginLoad q s).boot = s.boot ∧
    (beginLoad q s).pins = s.pins ∧ (beginLoad q s).now = s.now ∧ (beginLoad q s).freeUses = s.freeUses ∧
    (beginLoad q s).pending = s.pending := by
  simp [beginLoad]

@[simp] theorem endLoadRejected_keeps (q : Byte) (r : CommandResult) (d : BitVec 16) :
    (endLoadRejected q r d s).up0 = s.up0 ∧ (endLoadRejected q r d s).up1 = s.up1 ∧
    (endLoadRejected q r d s).dn = s.dn ∧ (endLoadRejected q r d s).contexts = s.contexts ∧
    (endLoadRejected q r d s).monitor = s.monitor ∧ (endLoadRejected q r d s).frame = s.frame ∧
    (endLoadRejected q r d s).cmd = s.cmd ∧ (endLoadRejected q r d s).boot = s.boot ∧
    (endLoadRejected q r d s).pins = s.pins ∧ (endLoadRejected q r d s).now = s.now ∧
    (endLoadRejected q r d s).freeUses = s.freeUses ∧ (endLoadRejected q r d s).pending = s.pending := by
  simp [endLoadRejected]

@[simp] theorem endLoadTaken_keeps (q : Byte) (t : Table) :
    (endLoadTaken q t s).up0 = s.up0 ∧ (endLoadTaken q t s).up1 = s.up1 ∧ (endLoadTaken q t s).dn = s.dn ∧
    (endLoadTaken q t s).contexts = s.contexts ∧ (endLoadTaken q t s).frame = s.frame ∧
    (endLoadTaken q t s).boot = s.boot ∧ (endLoadTaken q t s).pins = s.pins ∧ (endLoadTaken q t s).now = s.now ∧
    (endLoadTaken q t s).freeUses = s.freeUses ∧ (endLoadTaken q t s).pending = s.pending := by
  simp [endLoadTaken]

@[simp] theorem endLoad_keeps (l : TableLoad) :
    (endLoad l s).up0 = s.up0 ∧ (endLoad l s).up1 = s.up1 ∧ (endLoad l s).dn = s.dn ∧
    (endLoad l s).contexts = s.contexts ∧ (endLoad l s).frame = s.frame ∧ (endLoad l s).boot = s.boot ∧
    (endLoad l s).pins = s.pins ∧ (endLoad l s).now = s.now ∧ (endLoad l s).freeUses = s.freeUses ∧
    (endLoad l s).pending = s.pending := by
  unfold endLoad; (try dsimp only); (repeat' split) <;> simp

@[simp] theorem loadReadFails_keeps (l : TableLoad) :
    (loadReadFails l s).up0 = s.up0 ∧ (loadReadFails l s).up1 = s.up1 ∧ (loadReadFails l s).dn = s.dn ∧
    (loadReadFails l s).contexts = s.contexts ∧ (loadReadFails l s).monitor = s.monitor ∧
    (loadReadFails l s).ctrl = s.ctrl ∧ (loadReadFails l s).frame = s.frame ∧ (loadReadFails l s).engine = s.engine ∧
    (loadReadFails l s).cmd = s.cmd ∧ (loadReadFails l s).boot = s.boot ∧ (loadReadFails l s).pins = s.pins ∧
    (loadReadFails l s).now = s.now ∧ (loadReadFails l s).freeUses = s.freeUses ∧
    (loadReadFails l s).pending = s.pending := by
  unfold loadReadFails; (repeat' split) <;> simp

@[simp] theorem loadAnswer_keeps (l : TableLoad) (a : Answer) :
    (loadAnswer l a s).up0 = s.up0 ∧ (loadAnswer l a s).up1 = s.up1 ∧ (loadAnswer l a s).dn = s.dn ∧
    (loadAnswer l a s).contexts = s.contexts ∧ (loadAnswer l a s).frame = s.frame ∧ (loadAnswer l a s).boot = s.boot ∧
    (loadAnswer l a s).pins = s.pins ∧ (loadAnswer l a s).now = s.now ∧ (loadAnswer l a s).freeUses = s.freeUses ∧
    (loadAnswer l a s).pending = s.pending := by
  unfold loadAnswer; (try dsimp only); (repeat' split) <;> simp

@[simp] theorem restartRunning_keeps (q : Byte) :
    (restartRunning q s).dn = s.dn ∧ (restartRunning q s).frame = s.frame ∧ (restartRunning q s).boot = s.boot ∧
    (restartRunning q s).pins = s.pins ∧ (restartRunning q s).now = s.now ∧
    (restartRunning q s).freeUses = s.freeUses ∧ (restartRunning q s).pending = s.pending := by
  simp [restartRunning]

@[simp] theorem restartLoading_keeps (q : Byte) :
    (restartLoading q s).dn = s.dn ∧ (restartLoading q s).frame = s.frame ∧ (restartLoading q s).boot = s.boot ∧
    (restartLoading q s).pins = s.pins ∧ (restartLoading q s).now = s.now ∧
    (restartLoading q s).freeUses = s.freeUses ∧ (restartLoading q s).pending = s.pending := by
  simp [restartLoading]

@[simp] theorem takePublish_keeps (q : Byte) :
    (takePublish q s).up0 = s.up0 ∧ (takePublish q s).up1 = s.up1 ∧ (takePublish q s).dn = s.dn ∧
    (takePublish q s).contexts = s.contexts ∧ (takePublish q s).monitor = s.monitor ∧
    (takePublish q s).frame = s.frame ∧ (takePublish q s).engine = s.engine ∧ (takePublish q s).boot = s.boot ∧
    (takePublish q s).pins = s.pins ∧ (takePublish q s).now = s.now ∧ (takePublish q s).freeUses = s.freeUses ∧
    (takePublish q s).pending = s.pending := by
  unfold takePublish; (repeat' split) <;> simp

@[simp] theorem takeForce_keeps (q : Byte) (a : BitVec 16) :
    (takeForce q a s).up0 = s.up0 ∧ (takeForce q a s).up1 = s.up1 ∧ (takeForce q a s).dn = s.dn ∧
    (takeForce q a s).contexts = s.contexts ∧ (takeForce q a s).frame = s.frame ∧ (takeForce q a s).cmd = s.cmd ∧
    (takeForce q a s).boot = s.boot ∧ (takeForce q a s).pins = s.pins ∧ (takeForce q a s).now = s.now ∧
    (takeForce q a s).freeUses = s.freeUses ∧ (takeForce q a s).pending = s.pending := by
  unfold takeForce; (repeat' split) <;> simp

@[simp] theorem takeRelease_keeps (q : Byte) :
    (takeRelease q s).up0 = s.up0 ∧ (takeRelease q s).up1 = s.up1 ∧ (takeRelease q s).dn = s.dn ∧
    (takeRelease q s).contexts = s.contexts ∧ (takeRelease q s).ctrl = s.ctrl ∧ (takeRelease q s).frame = s.frame ∧
    (takeRelease q s).engine = s.engine ∧ (takeRelease q s).cmd = s.cmd ∧ (takeRelease q s).boot = s.boot ∧
    (takeRelease q s).pins = s.pins ∧ (takeRelease q s).now = s.now ∧ (takeRelease q s).freeUses = s.freeUses ∧
    (takeRelease q s).pending = s.pending := by
  unfold takeRelease; (repeat' split) <;> simp

@[simp] theorem takeReport_keeps (q : Byte) :
    (takeReport q s).up0 = s.up0 ∧ (takeReport q s).up1 = s.up1 ∧ (takeReport q s).dn = s.dn ∧
    (takeReport q s).contexts = s.contexts ∧ (takeReport q s).monitor = s.monitor ∧ (takeReport q s).ctrl = s.ctrl ∧
    (takeReport q s).frame = s.frame ∧ (takeReport q s).engine = s.engine ∧ (takeReport q s).cmd = s.cmd ∧
    (takeReport q s).boot = s.boot ∧ (takeReport q s).pins = s.pins ∧ (takeReport q s).now = s.now ∧
    (takeReport q s).freeUses = s.freeUses ∧ (takeReport q s).pending = s.pending := by
  unfold takeReport; (repeat' split) <;> simp

@[simp] theorem takeRestart_keeps (q : Byte) :
    (takeRestart q s).dn = s.dn ∧ (takeRestart q s).frame = s.frame ∧ (takeRestart q s).boot = s.boot ∧
    (takeRestart q s).pins = s.pins ∧ (takeRestart q s).now = s.now ∧ (takeRestart q s).freeUses = s.freeUses ∧
    (takeRestart q s).pending = s.pending := by
  unfold takeRestart; (repeat' split) <;> simp

@[simp] theorem runCommand_keeps (q c : Byte) (a : BitVec 16) :
    (runCommand q c a s).dn = s.dn ∧ (runCommand q c a s).frame = s.frame ∧ (runCommand q c a s).boot = s.boot ∧
    (runCommand q c a s).pins = s.pins ∧ (runCommand q c a s).now = s.now ∧
    (runCommand q c a s).freeUses = s.freeUses ∧ (runCommand q c a s).pending = s.pending := by
  unfold runCommand; (repeat' split) <;> simp

@[simp] theorem reportCommandWord_keeps (w : Pixel) :
    (reportCommandWord w s).dn = s.dn ∧ (reportCommandWord w s).frame = s.frame ∧
    (reportCommandWord w s).boot = s.boot ∧ (reportCommandWord w s).pins = s.pins ∧
    (reportCommandWord w s).now = s.now ∧ (reportCommandWord w s).freeUses = s.freeUses ∧
    (reportCommandWord w s).pending = s.pending := by
  unfold reportCommandWord; (repeat' split) <;> simp

/-! ## Intake -/

@[simp] theorem reportNoticeWrite_keeps (p : Port) (r : Request) (w : Pixel) :
    (reportNoticeWrite p r w s).up0 = s.up0 ∧ (reportNoticeWrite p r w s).up1 = s.up1 ∧
    (reportNoticeWrite p r w s).dn = s.dn ∧ (reportNoticeWrite p r w s).contexts = s.contexts ∧
    (reportNoticeWrite p r w s).monitor = s.monitor ∧ (reportNoticeWrite p r w s).ctrl = s.ctrl ∧
    (reportNoticeWrite p r w s).frame = s.frame ∧ (reportNoticeWrite p r w s).engine = s.engine ∧
    (reportNoticeWrite p r w s).cmd = s.cmd ∧ (reportNoticeWrite p r w s).boot = s.boot ∧
    (reportNoticeWrite p r w s).pins = s.pins ∧ (reportNoticeWrite p r w s).now = s.now ∧
    (reportNoticeWrite p r w s).freeUses = s.freeUses ∧ (reportNoticeWrite p r w s).pending = s.pending := by
  unfold reportNoticeWrite; (try dsimp only); (repeat' split) <;> simp

@[simp] theorem reportTableWrite_keeps :
    (reportTableWrite s).up0 = s.up0 ∧ (reportTableWrite s).up1 = s.up1 ∧ (reportTableWrite s).dn = s.dn ∧
    (reportTableWrite s).contexts = s.contexts ∧ (reportTableWrite s).monitor = s.monitor ∧
    (reportTableWrite s).ctrl = s.ctrl ∧ (reportTableWrite s).frame = s.frame ∧
    (reportTableWrite s).engine = s.engine ∧ (reportTableWrite s).notice = s.notice ∧
    (reportTableWrite s).boot = s.boot ∧ (reportTableWrite s).pins = s.pins ∧ (reportTableWrite s).now = s.now ∧
    (reportTableWrite s).freeUses = s.freeUses ∧ (reportTableWrite s).pending = s.pending := by
  simp [reportTableWrite]

@[simp] theorem reportWatched_keeps (p : Port) (r : Request) :
    (reportWatched p r s).dn = s.dn ∧ (reportWatched p r s).frame = s.frame ∧ (reportWatched p r s).boot = s.boot ∧
    (reportWatched p r s).pins = s.pins ∧ (reportWatched p r s).now = s.now ∧
    (reportWatched p r s).freeUses = s.freeUses ∧ (reportWatched p r s).pending = s.pending := by
  unfold reportWatched; (try dsimp only); (repeat' split) <;> simp

@[simp] theorem routeSurface_keeps (p : Port) (r : Request) (c : Context) :
    (routeSurface p r c s).dn = s.dn ∧ (routeSurface p r c s).contexts = s.contexts ∧
    (routeSurface p r c s).monitor = s.monitor ∧ (routeSurface p r c s).ctrl = s.ctrl ∧
    (routeSurface p r c s).frame = s.frame ∧ (routeSurface p r c s).cmd = s.cmd ∧
    (routeSurface p r c s).boot = s.boot ∧ (routeSurface p r c s).pins = s.pins ∧ (routeSurface p r c s).now = s.now ∧
    (routeSurface p r c s).freeUses = s.freeUses ∧ (routeSurface p r c s).pending = s.pending := by
  unfold routeSurface; (repeat' split) <;> simp

@[simp] theorem routeRaw_keeps (p : Port) (r : Request) :
    (routeRaw p r s).dn = s.dn ∧ (routeRaw p r s).contexts = s.contexts ∧ (routeRaw p r s).monitor = s.monitor ∧
    (routeRaw p r s).ctrl = s.ctrl ∧ (routeRaw p r s).frame = s.frame ∧ (routeRaw p r s).engine = s.engine ∧
    (routeRaw p r s).cmd = s.cmd ∧ (routeRaw p r s).notice = s.notice ∧ (routeRaw p r s).boot = s.boot ∧
    (routeRaw p r s).pins = s.pins ∧ (routeRaw p r s).now = s.now ∧ (routeRaw p r s).freeUses = s.freeUses ∧
    (routeRaw p r s).pending = s.pending := by
  unfold routeRaw; (repeat' split) <;> simp

@[simp] theorem routeSystem_keeps (p : Port) (r : Request) :
    (routeSystem p r s).dn = s.dn ∧ (routeSystem p r s).frame = s.frame ∧ (routeSystem p r s).boot = s.boot ∧
    (routeSystem p r s).pins = s.pins ∧ (routeSystem p r s).now = s.now ∧ (routeSystem p r s).freeUses = s.freeUses ∧
    (routeSystem p r s).pending = s.pending := by
  simp [routeSystem]

@[simp] theorem acceptSurface_keeps (p : Port) (k : Nat) (r : Request) :
    (acceptSurface p k r s).dn = s.dn ∧ (acceptSurface p k r s).monitor = s.monitor ∧
    (acceptSurface p k r s).ctrl = s.ctrl ∧ (acceptSurface p k r s).frame = s.frame ∧
    (acceptSurface p k r s).cmd = s.cmd ∧ (acceptSurface p k r s).boot = s.boot ∧
    (acceptSurface p k r s).pins = s.pins ∧ (acceptSurface p k r s).now = s.now ∧
    (acceptSurface p k r s).freeUses = s.freeUses ∧ (acceptSurface p k r s).pending = s.pending := by
  unfold acceptSurface; (try dsimp only); (repeat' split) <;> simp

@[simp] theorem acceptRequest_keeps (p : Port) (w : Window) (r : Request) :
    (acceptRequest p w r s).dn = s.dn ∧ (acceptRequest p w r s).frame = s.frame ∧
    (acceptRequest p w r s).boot = s.boot ∧ (acceptRequest p w r s).pins = s.pins ∧
    (acceptRequest p w r s).now = s.now ∧ (acceptRequest p w r s).freeUses = s.freeUses ∧
    (acceptRequest p w r s).pending = s.pending := by
  unfold acceptRequest; (repeat' split) <;> simp

@[simp] theorem refuseRequest_keeps (p : Port) (r : Request) :
    (refuseRequest p r s).dn = s.dn ∧ (refuseRequest p r s).contexts = s.contexts ∧
    (refuseRequest p r s).monitor = s.monitor ∧ (refuseRequest p r s).ctrl = s.ctrl ∧
    (refuseRequest p r s).frame = s.frame ∧ (refuseRequest p r s).engine = s.engine ∧
    (refuseRequest p r s).cmd = s.cmd ∧ (refuseRequest p r s).boot = s.boot ∧ (refuseRequest p r s).pins = s.pins ∧
    (refuseRequest p r s).now = s.now ∧ (refuseRequest p r s).freeUses = s.freeUses ∧
    (refuseRequest p r s).pending = s.pending := by
  simp [refuseRequest]

@[simp] theorem admitRequest_keeps (p : Port) (r : Request) :
    (admitRequest p r s).dn = s.dn ∧ (admitRequest p r s).frame = s.frame ∧ (admitRequest p r s).boot = s.boot ∧
    (admitRequest p r s).pins = s.pins ∧ (admitRequest p r s).now = s.now ∧
    (admitRequest p r s).freeUses = s.freeUses ∧ (admitRequest p r s).pending = s.pending := by
  unfold admitRequest; (repeat' split) <;> simp

@[simp] theorem presentRequest_keeps (p : Port) (r : Request) :
    (presentRequest p r s).dn = s.dn ∧ (presentRequest p r s).frame = s.frame ∧ (presentRequest p r s).boot = s.boot ∧
    (presentRequest p r s).pins = s.pins ∧ (presentRequest p r s).now = s.now ∧
    (presentRequest p r s).freeUses = s.freeUses ∧ (presentRequest p r s).pending = s.pending := by
  unfold presentRequest; (repeat' split) <;> simp

@[simp] theorem routeAgain_keeps (p : Port) (r : Request) :
    (routeAgain p r s).dn = s.dn ∧ (routeAgain p r s).contexts = s.contexts ∧ (routeAgain p r s).monitor = s.monitor ∧
    (routeAgain p r s).ctrl = s.ctrl ∧ (routeAgain p r s).frame = s.frame ∧ (routeAgain p r s).cmd = s.cmd ∧
    (routeAgain p r s).boot = s.boot ∧ (routeAgain p r s).pins = s.pins ∧ (routeAgain p r s).now = s.now ∧
    (routeAgain p r s).freeUses = s.freeUses ∧ (routeAgain p r s).pending = s.pending := by
  unfold routeAgain; (repeat' split) <;> simp

@[simp] theorem admitWaiting_keeps (p : Port) :
    (admitWaiting p s).dn = s.dn ∧ (admitWaiting p s).frame = s.frame ∧ (admitWaiting p s).boot = s.boot ∧
    (admitWaiting p s).pins = s.pins ∧ (admitWaiting p s).now = s.now ∧ (admitWaiting p s).freeUses = s.freeUses ∧
    (admitWaiting p s).pending = s.pending := by
  unfold admitWaiting; (repeat' split) <;> simp

/-! ## Downstream -/

@[simp] theorem fragmentAnswered_keeps (k : Key) (i : Nat) (a : Answer) :
    (fragmentAnswered k i a s).dn = s.dn ∧ (fragmentAnswered k i a s).monitor = s.monitor ∧
    (fragmentAnswered k i a s).ctrl = s.ctrl ∧ (fragmentAnswered k i a s).frame = s.frame ∧
    (fragmentAnswered k i a s).engine = s.engine ∧ (fragmentAnswered k i a s).cmd = s.cmd ∧
    (fragmentAnswered k i a s).notice = s.notice ∧ (fragmentAnswered k i a s).boot = s.boot ∧
    (fragmentAnswered k i a s).pins = s.pins ∧ (fragmentAnswered k i a s).now = s.now ∧
    (fragmentAnswered k i a s).freeUses = s.freeUses ∧ (fragmentAnswered k i a s).pending = s.pending := by
  unfold fragmentAnswered; (try dsimp only); (repeat' split) <;> simp

@[simp] theorem abandonMove_keeps (b : BufferId) (r : Reading) :
    (abandonMove b r s).up0 = s.up0 ∧ (abandonMove b r s).up1 = s.up1 ∧ (abandonMove b r s).dn = s.dn ∧
    (abandonMove b r s).contexts = s.contexts ∧ (abandonMove b r s).monitor = s.monitor ∧
    (abandonMove b r s).ctrl = s.ctrl ∧ (abandonMove b r s).frame = s.frame ∧ (abandonMove b r s).cmd = s.cmd ∧
    (abandonMove b r s).notice = s.notice ∧ (abandonMove b r s).boot = s.boot ∧ (abandonMove b r s).pins = s.pins ∧
    (abandonMove b r s).now = s.now ∧ (abandonMove b r s).freeUses = s.freeUses ∧
    (abandonMove b r s).pending = s.pending := by
  simp [abandonMove]

@[simp] theorem beginWriting_keeps (b : BufferId) (r : Reading) :
    (beginWriting b r s).up0 = s.up0 ∧ (beginWriting b r s).up1 = s.up1 ∧ (beginWriting b r s).dn = s.dn ∧
    (beginWriting b r s).contexts = s.contexts ∧ (beginWriting b r s).monitor = s.monitor ∧
    (beginWriting b r s).ctrl = s.ctrl ∧ (beginWriting b r s).frame = s.frame ∧ (beginWriting b r s).cmd = s.cmd ∧
    (beginWriting b r s).notice = s.notice ∧ (beginWriting b r s).boot = s.boot ∧ (beginWriting b r s).pins = s.pins ∧
    (beginWriting b r s).now = s.now ∧ (beginWriting b r s).freeUses = s.freeUses ∧
    (beginWriting b r s).pending = s.pending := by
  simp [beginWriting]

@[simp] theorem rowReadAnswered_keeps (b : BufferId) (r : Reading) (a : Answer) :
    (rowReadAnswered b r a s).up0 = s.up0 ∧ (rowReadAnswered b r a s).up1 = s.up1 ∧
    (rowReadAnswered b r a s).dn = s.dn ∧ (rowReadAnswered b r a s).contexts = s.contexts ∧
    (rowReadAnswered b r a s).monitor = s.monitor ∧ (rowReadAnswered b r a s).ctrl = s.ctrl ∧
    (rowReadAnswered b r a s).frame = s.frame ∧ (rowReadAnswered b r a s).cmd = s.cmd ∧
    (rowReadAnswered b r a s).boot = s.boot ∧ (rowReadAnswered b r a s).pins = s.pins ∧
    (rowReadAnswered b r a s).now = s.now ∧ (rowReadAnswered b r a s).freeUses = s.freeUses ∧
    (rowReadAnswered b r a s).pending = s.pending := by
  unfold rowReadAnswered; (try dsimp only); (repeat' split) <;> simp

@[simp] theorem endTile_keeps (b : BufferId) (w : Writing) :
    (endTile b w s).dn = s.dn ∧ (endTile b w s).contexts = s.contexts ∧ (endTile b w s).monitor = s.monitor ∧
    (endTile b w s).frame = s.frame ∧ (endTile b w s).cmd = s.cmd ∧ (endTile b w s).boot = s.boot ∧
    (endTile b w s).pins = s.pins ∧ (endTile b w s).now = s.now ∧ (endTile b w s).freeUses = s.freeUses ∧
    (endTile b w s).pending = s.pending := by
  simp [endTile]

@[simp] theorem rowWriteAnswered_keeps (b : BufferId) (w : Writing) (a : Answer) :
    (rowWriteAnswered b w a s).dn = s.dn ∧ (rowWriteAnswered b w a s).contexts = s.contexts ∧
    (rowWriteAnswered b w a s).monitor = s.monitor ∧ (rowWriteAnswered b w a s).frame = s.frame ∧
    (rowWriteAnswered b w a s).cmd = s.cmd ∧ (rowWriteAnswered b w a s).boot = s.boot ∧
    (rowWriteAnswered b w a s).pins = s.pins ∧ (rowWriteAnswered b w a s).now = s.now ∧
    (rowWriteAnswered b w a s).freeUses = s.freeUses ∧ (rowWriteAnswered b w a s).pending = s.pending := by
  unfold rowWriteAnswered; (try dsimp only); (repeat' split) <;> simp

@[simp] theorem discardAnswered_keeps (b : BufferId) (n : Nat) :
    (discardAnswered b n s).up0 = s.up0 ∧ (discardAnswered b n s).up1 = s.up1 ∧ (discardAnswered b n s).dn = s.dn ∧
    (discardAnswered b n s).contexts = s.contexts ∧ (discardAnswered b n s).monitor = s.monitor ∧
    (discardAnswered b n s).frame = s.frame ∧ (discardAnswered b n s).cmd = s.cmd ∧
    (discardAnswered b n s).boot = s.boot ∧ (discardAnswered b n s).pins = s.pins ∧
    (discardAnswered b n s).now = s.now ∧ (discardAnswered b n s).freeUses = s.freeUses ∧
    (discardAnswered b n s).pending = s.pending := by
  unfold discardAnswered; (repeat' split) <;> simp

@[simp] theorem dropAnswer_keeps (f : InFlight) :
    (dropAnswer f s).up0 = s.up0 ∧ (dropAnswer f s).up1 = s.up1 ∧ (dropAnswer f s).dn = s.dn ∧
    (dropAnswer f s).contexts = s.contexts ∧ (dropAnswer f s).monitor = s.monitor ∧ (dropAnswer f s).frame = s.frame ∧
    (dropAnswer f s).boot = s.boot ∧ (dropAnswer f s).pins = s.pins ∧ (dropAnswer f s).now = s.now ∧
    (dropAnswer f s).freeUses = s.freeUses ∧ (dropAnswer f s).pending = s.pending := by
  unfold dropAnswer; (repeat' split) <;> simp

@[simp] theorem recordAnswered_keeps (w : RecordWriter) (a : Answer) :
    (recordAnswered w a s).up0 = s.up0 ∧ (recordAnswered w a s).up1 = s.up1 ∧ (recordAnswered w a s).dn = s.dn ∧
    (recordAnswered w a s).contexts = s.contexts ∧ (recordAnswered w a s).monitor = s.monitor ∧
    (recordAnswered w a s).ctrl = s.ctrl ∧ (recordAnswered w a s).frame = s.frame ∧
    (recordAnswered w a s).engine = s.engine ∧ (recordAnswered w a s).cmd = s.cmd ∧
    (recordAnswered w a s).boot = s.boot ∧ (recordAnswered w a s).pins = s.pins ∧ (recordAnswered w a s).now = s.now ∧
    (recordAnswered w a s).freeUses = s.freeUses ∧ (recordAnswered w a s).pending = s.pending := by
  unfold recordAnswered; (try dsimp only); (repeat' split) <;> simp

@[simp] theorem responseAnswered_keeps (a : Answer) :
    (responseAnswered a s).up0 = s.up0 ∧ (responseAnswered a s).up1 = s.up1 ∧ (responseAnswered a s).dn = s.dn ∧
    (responseAnswered a s).contexts = s.contexts ∧ (responseAnswered a s).monitor = s.monitor ∧
    (responseAnswered a s).ctrl = s.ctrl ∧ (responseAnswered a s).frame = s.frame ∧
    (responseAnswered a s).engine = s.engine ∧ (responseAnswered a s).cmd = s.cmd ∧
    (responseAnswered a s).boot = s.boot ∧ (responseAnswered a s).pins = s.pins ∧ (responseAnswered a s).now = s.now ∧
    (responseAnswered a s).freeUses = s.freeUses ∧ (responseAnswered a s).pending = s.pending := by
  unfold responseAnswered; (try dsimp only); (repeat' split) <;> simp

@[simp] theorem answerReports_keeps (rs : List Byte) :
    (answerReports rs s).up0 = s.up0 ∧ (answerReports rs s).up1 = s.up1 ∧ (answerReports rs s).dn = s.dn ∧
    (answerReports rs s).contexts = s.contexts ∧ (answerReports rs s).monitor = s.monitor ∧
    (answerReports rs s).ctrl = s.ctrl ∧ (answerReports rs s).frame = s.frame ∧
    (answerReports rs s).engine = s.engine ∧ (answerReports rs s).cmd = s.cmd ∧ (answerReports rs s).boot = s.boot ∧
    (answerReports rs s).pins = s.pins ∧ (answerReports rs s).now = s.now ∧
    (answerReports rs s).freeUses = s.freeUses ∧ (answerReports rs s).pending = s.pending := by
  unfold answerReports
  refine ⟨foldl_keeps State.up0 _ (fun t a => by simp) _ _, foldl_keeps State.up1 _ (fun t a => by simp) _ _, foldl_keeps State.dn _ (fun t a => by simp) _ _, foldl_keeps State.contexts _ (fun t a => by simp) _ _, foldl_keeps State.monitor _ (fun t a => by simp) _ _, foldl_keeps State.ctrl _ (fun t a => by simp) _ _, foldl_keeps State.frame _ (fun t a => by simp) _ _, foldl_keeps State.engine _ (fun t a => by simp) _ _, foldl_keeps State.cmd _ (fun t a => by simp) _ _, foldl_keeps State.boot _ (fun t a => by simp) _ _, foldl_keeps State.pins _ (fun t a => by simp) _ _, foldl_keeps State.now _ (fun t a => by simp) _ _, foldl_keeps State.freeUses _ (fun t a => by simp) _ _, foldl_keeps State.pending _ (fun t a => by simp) _ _⟩

@[simp] theorem countsAnswered_keeps (f : CountsFlight) (a : Answer) :
    (countsAnswered f a s).up0 = s.up0 ∧ (countsAnswered f a s).up1 = s.up1 ∧ (countsAnswered f a s).dn = s.dn ∧
    (countsAnswered f a s).contexts = s.contexts ∧ (countsAnswered f a s).monitor = s.monitor ∧
    (countsAnswered f a s).ctrl = s.ctrl ∧ (countsAnswered f a s).frame = s.frame ∧
    (countsAnswered f a s).engine = s.engine ∧ (countsAnswered f a s).cmd = s.cmd ∧
    (countsAnswered f a s).boot = s.boot ∧ (countsAnswered f a s).pins = s.pins ∧ (countsAnswered f a s).now = s.now ∧
    (countsAnswered f a s).freeUses = s.freeUses ∧ (countsAnswered f a s).pending = s.pending := by
  unfold countsAnswered; (try dsimp only); (repeat' split) <;> simp

/-! ## Frames and boot -/

@[simp] theorem takeAwaitedFlip_keeps :
    (takeAwaitedFlip s).up0 = s.up0 ∧ (takeAwaitedFlip s).up1 = s.up1 ∧ (takeAwaitedFlip s).dn = s.dn ∧
    (takeAwaitedFlip s).contexts = s.contexts ∧ (takeAwaitedFlip s).monitor = s.monitor ∧
    (takeAwaitedFlip s).frame = s.frame ∧ (takeAwaitedFlip s).cmd = s.cmd ∧ (takeAwaitedFlip s).boot = s.boot ∧
    (takeAwaitedFlip s).pins = s.pins ∧ (takeAwaitedFlip s).now = s.now ∧ (takeAwaitedFlip s).freeUses = s.freeUses ∧
    (takeAwaitedFlip s).pending = s.pending := by
  unfold takeAwaitedFlip; (repeat' split) <;> simp

@[simp] theorem countBoundary_keeps :
    (countBoundary s).up0 = s.up0 ∧ (countBoundary s).up1 = s.up1 ∧ (countBoundary s).dn = s.dn ∧
    (countBoundary s).contexts = s.contexts ∧ (countBoundary s).monitor = s.monitor ∧
    (countBoundary s).ctrl = s.ctrl ∧ (countBoundary s).frame = s.frame ∧ (countBoundary s).engine = s.engine ∧
    (countBoundary s).cmd = s.cmd ∧ (countBoundary s).boot = s.boot ∧ (countBoundary s).pins = s.pins ∧
    (countBoundary s).now = s.now ∧ (countBoundary s).freeUses = s.freeUses ∧ (countBoundary s).pending = s.pending := by
  unfold countBoundary; (try dsimp only); (repeat' split) <;> simp

@[simp] theorem checkReturn_keeps :
    (checkReturn s).up0 = s.up0 ∧ (checkReturn s).up1 = s.up1 ∧ (checkReturn s).dn = s.dn ∧
    (checkReturn s).contexts = s.contexts ∧ (checkReturn s).monitor = s.monitor ∧ (checkReturn s).ctrl = s.ctrl ∧
    (checkReturn s).engine = s.engine ∧ (checkReturn s).cmd = s.cmd ∧ (checkReturn s).boot = s.boot ∧
    (checkReturn s).pins = s.pins ∧ (checkReturn s).now = s.now ∧ (checkReturn s).freeUses = s.freeUses ∧
    (checkReturn s).pending = s.pending := by
  unfold checkReturn; (try dsimp only); (repeat' split) <;> simp

@[simp] theorem frameStarts_keeps :
    (frameStarts s).up0 = s.up0 ∧ (frameStarts s).up1 = s.up1 ∧ (frameStarts s).dn = s.dn ∧
    (frameStarts s).contexts = s.contexts ∧ (frameStarts s).monitor = s.monitor ∧ (frameStarts s).cmd = s.cmd ∧
    (frameStarts s).boot = s.boot ∧ (frameStarts s).pins = s.pins ∧ (frameStarts s).now = s.now ∧
    (frameStarts s).freeUses = s.freeUses ∧ (frameStarts s).pending = s.pending := by
  simp [frameStarts]

@[simp] theorem lossTimerExpires_keeps :
    (lossTimerExpires s).up0 = s.up0 ∧ (lossTimerExpires s).up1 = s.up1 ∧ (lossTimerExpires s).dn = s.dn ∧
    (lossTimerExpires s).contexts = s.contexts ∧ (lossTimerExpires s).monitor = s.monitor ∧
    (lossTimerExpires s).cmd = s.cmd ∧ (lossTimerExpires s).boot = s.boot ∧ (lossTimerExpires s).pins = s.pins ∧
    (lossTimerExpires s).now = s.now ∧ (lossTimerExpires s).freeUses = s.freeUses ∧
    (lossTimerExpires s).pending = s.pending := by
  unfold lossTimerExpires; (try dsimp only); (repeat' split) <;> simp

@[simp] theorem roundFallsDue_keeps :
    (roundFallsDue s).up0 = s.up0 ∧ (roundFallsDue s).up1 = s.up1 ∧ (roundFallsDue s).dn = s.dn ∧
    (roundFallsDue s).contexts = s.contexts ∧ (roundFallsDue s).ctrl = s.ctrl ∧ (roundFallsDue s).frame = s.frame ∧
    (roundFallsDue s).engine = s.engine ∧ (roundFallsDue s).cmd = s.cmd ∧ (roundFallsDue s).notice = s.notice ∧
    (roundFallsDue s).boot = s.boot ∧ (roundFallsDue s).now = s.now ∧ (roundFallsDue s).freeUses = s.freeUses ∧
    (roundFallsDue s).pending = s.pending := by
  unfold roundFallsDue; (try dsimp only); (repeat' split) <;> simp

@[simp] theorem headReadEnds_keeps (bs : List Byte) :
    (headReadEnds bs s).up0 = s.up0 ∧ (headReadEnds bs s).up1 = s.up1 ∧ (headReadEnds bs s).dn = s.dn ∧
    (headReadEnds bs s).contexts = s.contexts ∧ (headReadEnds bs s).monitor = s.monitor ∧
    (headReadEnds bs s).ctrl = s.ctrl ∧ (headReadEnds bs s).frame = s.frame ∧ (headReadEnds bs s).engine = s.engine ∧
    (headReadEnds bs s).cmd = s.cmd ∧ (headReadEnds bs s).notice = s.notice ∧ (headReadEnds bs s).now = s.now ∧
    (headReadEnds bs s).pending = s.pending := by
  unfold headReadEnds; (try dsimp only); (repeat' split) <;> simp

@[simp] theorem bodyReadEnds_keeps (bs : List Byte) :
    (bodyReadEnds bs s).up0 = s.up0 ∧ (bodyReadEnds bs s).up1 = s.up1 ∧ (bodyReadEnds bs s).dn = s.dn ∧
    (bodyReadEnds bs s).contexts = s.contexts ∧ (bodyReadEnds bs s).monitor = s.monitor ∧
    (bodyReadEnds bs s).ctrl = s.ctrl ∧ (bodyReadEnds bs s).frame = s.frame ∧ (bodyReadEnds bs s).engine = s.engine ∧
    (bodyReadEnds bs s).cmd = s.cmd ∧ (bodyReadEnds bs s).notice = s.notice ∧ (bodyReadEnds bs s).now = s.now ∧
    (bodyReadEnds bs s).pending = s.pending := by
  simp [bodyReadEnds]

@[simp] theorem takeBootTable_keeps :
    (takeBootTable s).up0 = s.up0 ∧ (takeBootTable s).up1 = s.up1 ∧ (takeBootTable s).dn = s.dn ∧
    (takeBootTable s).contexts = s.contexts ∧ (takeBootTable s).monitor = s.monitor ∧
    (takeBootTable s).ctrl = s.ctrl ∧ (takeBootTable s).frame = s.frame ∧ (takeBootTable s).engine = s.engine ∧
    (takeBootTable s).boot = s.boot ∧ (takeBootTable s).pins = s.pins ∧ (takeBootTable s).now = s.now ∧
    (takeBootTable s).freeUses = s.freeUses ∧ (takeBootTable s).pending = s.pending := by
  unfold takeBootTable; (repeat' split) <;> simp

@[simp] theorem checkEnds_keeps (p : Port) :
    (checkEnds p s).dn = s.dn ∧ (checkEnds p s).frame = s.frame ∧ (checkEnds p s).pins = s.pins ∧
    (checkEnds p s).now = s.now ∧ (checkEnds p s).freeUses = s.freeUses ∧ (checkEnds p s).pending = s.pending := by
  simp [checkEnds]

end Sys2Proof.Machine
end

