-- ==== Sys2Proof/Laws/Outputs.lean ====
section
/-!
SUPPORT. What the notice unit's operations do: the end of an event, raising and acknowledging kinds, counters and their
transfer. One lemma per operation, which says all it can do.
-/
namespace Sys2Proof.Machine

/-! ## The end of an event -/

/-- R164, R166, R167: the end of an event rewrites the notice unit alone, and there only the status writer, NOTIFY and
the order of the ready writes. -/
theorem settleOutputs_spec (b s : State) :
    settleOutputs b s = { s with notice := (settleOutputs b s).notice } ∧
      NoticeKept s.notice (settleOutputs b s).notice ∧
      (settleOutputs b s).notice.statusWriter =
        (if statusFields b = statusFields s then s.notice.statusWriter else writerChanged s.notice.statusWriter) := by
  refine ⟨rfl, ?_, ?_⟩
  · simp only [settleOutputs, NoticeKept]; split <;> rfl
  · simp only [settleOutputs]; split <;> simp_all

/-- The end of an event depends on the state before it only through the status fields. -/
theorem settleOutputs_congr {b b' : State} (h : statusFields b = statusFields b') (s : State) :
    settleOutputs b s = settleOutputs b' s := by
  simp only [settleOutputs, h]

/-- R164: the level of NOTIFY. -/
theorem notifyLevel_true (set : BitVec 10) (shadow : Option Table) :
    notifyLevel set shadow = true ↔
      ∃ t k, shadow = some t ∧ kindPending set k = true ∧ kindPending t.enables k = true := by
  cases shadow with
  | none => simp [notifyLevel]
  | some t =>
    simp only [notifyLevel, Option.some.injEq, exists_and_left, exists_eq_left', bne_iff_ne, ne_eq]
    constructor
    · intro h
      refine Classical.byContradiction fun hn => ?_
      simp only [not_exists, not_and] at hn
      apply h
      apply BitVec.eq_of_getLsbD_eq
      intro i hi
      have hk : ∃ k, kindNumber k = i := by
        have : ∀ i : Fin 10, ∃ k, kindNumber k = i := by
          intro i
          match i with
          | 0 => exact ⟨.transitionBegun, rfl⟩
          | 1 => exact ⟨.layoutActive, rfl⟩
          | 2 => exact ⟨.hingeChange, rfl⟩
          | 3 => exact ⟨.fallbackTaken, rfl⟩
          | 4 => exact ⟨.tableLoaded, rfl⟩
          | 5 => exact ⟨.tableRejected, rfl⟩
          | 6 => exact ⟨.panelTiming, rfl⟩
          | 7 => exact ⟨.memoryError, rfl⟩
          | 8 => exact ⟨.countsReady, rfl⟩
          | 9 => exact ⟨.commandDone, rfl⟩
        exact this ⟨i, hi⟩
      obtain ⟨k, rfl⟩ := hk
      have := hn k
      simp only [kindPending] at this
      cases hs : set.getLsbD (kindNumber k) <;> simp_all
    · rintro ⟨k, h1, h2⟩ h
      have hb : (set &&& t.enables).getLsbD (kindNumber k) = true := by
        simp only [kindPending] at h1 h2
        simp [h1, h2]
      rw [h] at hb
      simp at hb

/-! ## Kinds -/

/-- The kinds' numbers are their places in a set of ten. -/
theorem kindNumber_lt (k : NoticeKind) : kindNumber k < 10 := by cases k <;> decide

/-- No two kinds share a number. -/
theorem kindNumber_inj {j k : NoticeKind} : kindNumber j = kindNumber k ↔ j = k := by
  cases j <;> cases k <;> decide

@[simp] theorem kindPending_or (a b : BitVec 10) (k : NoticeKind) :
    kindPending (a ||| b) k = (kindPending a k || kindPending b k) := by simp [kindPending]

@[simp] theorem kindPending_kindBit (j k : NoticeKind) : kindPending (kindBit j) k = decide (k = j) := by
  cases j <;> cases k <;> decide

@[simp] theorem kindPending_zero (k : NoticeKind) : kindPending 0 k = false := by simp [kindPending]

/-- R163: raising a kind adds it to the set, marks the notice record where the set changes, and nothing else. -/
theorem raiseKind_spec (k : NoticeKind) (n : NoticeUnit) :
    raiseKind k n = { n with set := n.set ||| kindBit k
                             noticeWriter := if kindPending n.set k then n.noticeWriter else writerChanged n.noticeWriter } := by
  unfold raiseKind
  split
  · rename_i h
    have : n.set ||| kindBit k = n.set := by
      apply BitVec.eq_of_getLsbD_eq
      intro i hi
      by_cases hik : i = kindNumber k
      · subst hik; simp_all [kindPending]
      · have : (kindBit k).getLsbD i = false := by
          simp only [kindBit, BitVec.getLsbD_shiftLeft]
          by_cases hlt : i < kindNumber k
          · simp [hlt]
          · have : i - kindNumber k ≠ 0 := by omega
            simp [BitVec.getLsbD_one, this]
        simp [this]
    simp [this]
  · simp_all

@[simp] theorem raise_set (k : NoticeKind) (s : State) : (raise k s).notice.set = s.notice.set ||| kindBit k := by
  simp [raise, raiseKind_spec]

@[simp] theorem raise_counters (k : NoticeKind) (s : State) : (raise k s).notice.counters = s.notice.counters := by
  simp [raise, raiseKind_spec]

/-- R163: what raising a kind leaves of the notice unit. -/
theorem raise_notice (k : NoticeKind) (s : State) :
    (raise k s).notice = { s.notice with
      set := (raise k s).notice.set, noticeWriter := (raise k s).notice.noticeWriter } := by
  simp [raise, raiseKind_spec]

/-- R165: acknowledging a word removes the kinds it marks, marks the notice record where the set changes, and nothing
else. -/
theorem acknowledgeWord_spec (w : Pixel) (n : NoticeUnit) :
    acknowledgeWord w n =
        { n with set := (acknowledgeWord w n).set, noticeWriter := (acknowledgeWord w n).noticeWriter } ∧
      (∀ k, kindPending (acknowledgeWord w n).set k = true ↔
        kindPending n.set k = true ∧ ¬ w.getLsbD (kindNumber k) = true) ∧
      ((acknowledgeWord w n).set = n.set → (acknowledgeWord w n).noticeWriter = n.noticeWriter) ∧
      ((acknowledgeWord w n).set ≠ n.set → (acknowledgeWord w n).noticeWriter = writerChanged n.noticeWriter) := by
  have bits : ∀ k, kindPending (n.set &&& ~~~ (w.setWidth 10)) k = true ↔
      kindPending n.set k = true ∧ ¬ w.getLsbD (kindNumber k) = true := by
    intro k; simp [kindPending, kindNumber_lt k]
  unfold acknowledgeWord
  dsimp only
  split
  · rename_i h
    refine ⟨rfl, fun k => ?_, by simp, by simp⟩
    rw [← bits, h]
  · refine ⟨rfl, fun k => ?_, by simp_all, by simp⟩
    rw [← bits]

/-! ## Counters -/

@[simp] theorem countEvent_notice (i : CounterId) (n : Nat) (s : State) :
    (countEvent i n s).notice = { s.notice with counters := countIn i n s.notice.counters } := rfl

/-- R168: an event advances its own counter alone. -/
theorem counterOf_countIn (i j : CounterId) (n : Nat) (c : Counters) :
    counterOf (countIn i n c) j = if j = i then addCount n (counterOf c j) else counterOf c j := by
  cases i <;> cases j <;> rfl

@[simp] theorem counterOf_zero (i : CounterId) : counterOf Counters.zero i = Counter.zero := by cases i <;> rfl

/-- R169: a waiting counts write absorbs each counter. -/
theorem counterOf_absorb (i : CounterId) (w c : Counters) :
    counterOf (absorbCounters w c) i = absorbCounter (counterOf w i) (counterOf c i) := by cases i <;> rfl

/-- R168: an amount keeps a counter's bound and flag right. -/
theorem addCount_right {c : Counter} (n : Nat) (h : CounterRight c) : CounterRight (addCount n c) := by
  obtain ⟨h1, h2⟩ := h
  refine ⟨by simp only [addCount]; omega, ?_⟩
  simp only [addCount, Bool.or_eq_true, beq_iff_eq]
  constructor
  · rintro (h | h)
    · rw [h2] at h; omega
    · exact h
  · exact Or.inr

@[simp] theorem countIn_right (i : CounterId) (n : Nat) {c : Counters} (h : ∀ j, CounterRight (counterOf c j)) (j : CounterId) :
    CounterRight (counterOf (countIn i n c) j) := by
  rw [counterOf_countIn]; split
  · exact addCount_right n (h j)
  · exact h j

end Sys2Proof.Machine
end

