-- ==== Sys2Proof/Laws/Intake.lean ====
section
/-!
SUPPORT. What the intake's operations do: presenting, the watch points, sending a response. One lemma per operation.
-/
namespace Sys2Proof.Machine

/-- A released part runs its commands. -/
theorem Released.run {s : State} (h : Released s) (k : Host.Outcome State Fault Refusal) : whileReleased s k = k := by
  unfold Released at h; simp [whileReleased, h]

/-! ## The forwarded request -/

section
variable (p : Port) (r : Request) (s : State)

@[simp] theorem forwarded_dn : (forwarded p r s).dn = s.dn := by simp [forwarded]
@[simp] theorem forwarded_contexts : (forwarded p r s).contexts = s.contexts := by simp [forwarded]
@[simp] theorem forwarded_monitor : (forwarded p r s).monitor = s.monitor := by simp [forwarded]
@[simp] theorem forwarded_ctrl : (forwarded p r s).ctrl = s.ctrl := by simp [forwarded]
@[simp] theorem forwarded_frame : (forwarded p r s).frame = s.frame := by simp [forwarded]
@[simp] theorem forwarded_engine : (forwarded p r s).engine = s.engine := by simp [forwarded]
@[simp] theorem forwarded_cmd : (forwarded p r s).cmd = s.cmd := by simp [forwarded]
@[simp] theorem forwarded_notice : (forwarded p r s).notice = s.notice := by simp [forwarded]
@[simp] theorem forwarded_boot : (forwarded p r s).boot = s.boot := by simp [forwarded]
@[simp] theorem forwarded_pins : (forwarded p r s).pins = s.pins := by simp [forwarded]
@[simp] theorem forwarded_now : (forwarded p r s).now = s.now := by simp [forwarded]
@[simp] theorem forwarded_freeUses : (forwarded p r s).freeUses = s.freeUses := by simp [forwarded]
@[simp] theorem forwarded_pending : (forwarded p r s).pending = s.pending := by simp [forwarded]

/-- R6, R11: marking the tag and joining the path list is what `forwarded` says. -/
theorem forwarded_of_steps (h : TakesTag p r.tag s) :
    joinPath p (.forward r) (setPlace p .empty (markTag p r.tag s)) = forwarded p r s := by
  have := h.1
  cases p <;> simp_all [forwarded, joinPath, setPlace, markTag, setPort, portOf]

end

/-- No held request shares a tile: the order test passes (R17). -/
theorem SharesNoHeldTile.test {p : Port} {ts : List BankTile} {s : State} (h : SharesNoHeldTile p ts s) :
    sharesHeldTile p ts s = false := by
  simp only [sharesHeldTile, List.any_eq_false]
  rintro ⟨q, tag⟩ hk
  simp only [Bool.and_eq_true, beq_iff_eq, not_and]
  rintro rfl
  cases hc : contextOf (q, tag) s with
  | none => simp
  | some c =>
    simp only [List.any_eq_true, List.contains_iff_mem, not_exists, not_and]
    exact fun t ht => h tag hk c hc t ht

/-- R141: the hold test. -/
theorem mustHold_iff (c : Context) (s : State) : mustHold c s = true ↔ MustBeHeld c s := by
  simp [mustHold, MustBeHeld, tilesFinished, and_assoc]

/-- R17: the order test. -/
theorem sharesHeldTile_iff (p : Port) (ts : List BankTile) (s : State) :
    sharesHeldTile p ts s = false ↔ SharesNoHeldTile p ts s := by
  refine ⟨fun h => ?_, SharesNoHeldTile.test⟩
  intro tag hk c hc t ht htt
  simp only [sharesHeldTile, List.any_eq_false] at h
  have := h (p, tag) hk
  simp [hc] at this
  exact this t ht htt

/-! ## Reception (R6, R17, R49, R50) -/

/-- R50: what governs a reception. -/
theorem Governs.eq {rc : RecordCopy} {b : Bank} {s : State} (h : Governs rc b s) :
    governingRecord s = rc ∧ governingBank s = b ∧ s.ctrl.state ≠ .loading := by
  unfold governingRecord governingBank backBank
  rcases h with ⟨h1, h2, h3⟩ | ⟨h1, h2, h3⟩
  · simp [h1, h2, h3]
  · cases hs : s.ctrl.state <;> simp_all [inTransition]

/-- Appending a context of another request leaves the contexts of the held requests. -/
theorem contextOf_append {key : Key} {c : Context} {s t : State} (ht : t.contexts = s.contexts ++ [c])
    (hk : key ≠ (c.port, c.tag)) : contextOf key t = contextOf key s := by
  unfold contextOf
  rw [ht, List.find?_append]
  have : ([c].find? fun d => d.port == key.1 && d.tag == key.2) = none := by
    simp only [List.find?_cons, List.find?_nil]
    split
    · rename_i hx
      simp only [Bool.and_eq_true, beq_iff_eq] at hx
      exact absurd (Prod.ext hx.1.symm hx.2.symm) hk
    · rfl
  rw [this]; simp

/-- R17: the order test does not see a context that joins for a request not held. -/
theorem sharesHeldTile_append {p : Port} {ts : List BankTile} {c : Context} {s t : State}
    (ht : t.contexts = s.contexts ++ [c]) (he : t.engine.hold = s.engine.hold) (hk : (c.port, c.tag) ∉ s.engine.hold) :
    sharesHeldTile p ts t = sharesHeldTile p ts s := by
  unfold sharesHeldTile
  rw [he]
  apply Bool.eq_iff_iff.2
  simp only [List.any_eq_true]
  constructor
  · rintro ⟨k, hm, h⟩
    rw [contextOf_append ht (by rintro rfl; exact hk hm)] at h
    exact ⟨k, hm, h⟩
  · rintro ⟨k, hm, h⟩
    rw [← contextOf_append ht (by rintro rfl; exact hk hm)] at h
    exact ⟨k, hm, h⟩

/-- Emptying an EMPTY place changes nothing. -/
theorem setPlace_empty {p : Port} {v : State} (h : (portOf p v).place = .empty) : setPlace p .empty v = v := by
  cases p
  · obtain ⟨⟨_, _, _, _, _⟩, _, _, _, _, _, _, _, _, _, _, _, _, _, _⟩ := v
    simp [portOf] at h; subst h; rfl
  · obtain ⟨_, ⟨_, _, _, _, _⟩, _, _, _, _, _, _, _, _, _, _, _, _, _⟩ := v
    simp [portOf] at h; subst h; rfl

/-! ## Presenting (R6) -/

/-- R6: a request presented in an EMPTY place with a tag that is free goes on to the window tests. -/
theorem present_takes {p : Port} {r : Request} {s : State} (h : Released s) (hp : presentable r = true)
    (ht : TakesTag p r.tag s) : present p r s = .next (settleOutputs s (admitRequest p r s)) := by
  simp [present, h.run, hp, happens, presentRequest, ht.1, ht.2]

section
variable {p : Port} {r : Request} {k : Nat} {rc : RecordCopy} {b : Bank} {s : State}

/-- R6, R12, R46, R49, R50: a surface request that is received: it is answered where it has no fragment, and routed where
it has one. -/
theorem present_surface (h : Released s) (hp : presentable r = true) (ht : TakesTag p r.tag s)
    (hw : admittedWindow r = some (.surface k)) (hg : Governs rc b s) :
    let c := makeContext p s.ctrl.generation rc b (snapshotOf s.cmd.shadow k) k r
    let u := received p c (droppedPixels k (snapshotOf s.cmd.shadow k) rc r) s
    present p r s = .next (settleOutputs s (if c.fragments = [] then
        makeReady p { response := { tag := r.tag, result := .okay, data := zeroData r.body }, origin := .surface } u
      else routeSurface p r c u)) := by
  obtain ⟨g1, g2, g3⟩ := hg.eq
  have hpl := ht.1
  rw [present_takes h hp ht]
  simp only [admitRequest, hw, isSurface, g3, and_false, if_false, acceptRequest, acceptSurface, receive, g1, g2,
    List.isEmpty_iff]
  congr 2
  have e : ∀ n, countEvent .clipped n { markTag p r.tag s with
      contexts := (markTag p r.tag s).contexts
        ++ [makeContext p s.ctrl.generation rc b (snapshotOf s.cmd.shadow k) k r] } =
      received p (makeContext p s.ctrl.generation rc b (snapshotOf s.cmd.shadow k) k r) n s := by
    intro n
    cases p <;> rfl
  have e2 : ∀ n c, setPlace p .empty (received p c n s) = received p c n s := by
    intro n c
    cases p <;> simp_all [received, setPlace, setPort, portOf, countEvent, onNotice]
  rw [e, e2]
  rfl

end

/-- R10: an accepted system window request is forwarded and then reported to the watch points. -/
theorem admit_system {p : Port} {r : Request} {s : State} (ht : TakesTag p r.tag s)
    (hw : admittedWindow r = some .system) : admitRequest p r s = reportWatched p r (forwarded p r s) := by
  simp [admitRequest, hw, isSurface, acceptRequest, routeSystem, forwarded_of_steps p r s ht]

/-- The unmasked words of a write lie from its address on, within its pixels (R1). -/
theorem unmaskedWords_range (base : Nat) (px : List WritePixel) :
    ∀ w ∈ unmaskedWords base px, base ≤ w.1 ∧ w.1 < base + 4 * px.length := by
  induction px generalizing base with
  | nil => simp [unmaskedWords]
  | cons q qs ih =>
    intro w hw
    simp only [unmaskedWords] at hw
    simp only [List.length_cons]
    split at hw
    · rcases List.mem_cons.1 hw with rfl | hw
      · exact ⟨Nat.le_refl _, by show base < _; omega⟩
      · have := ih _ _ hw; omega
    · have := ih _ _ hw; omega

/-- Two words that one presentable write holds lie less than 256 bytes apart. -/
theorem writtenWords_close {r : Request} (hp : presentable r = true) {u w : Nat × Pixel} (hu : u ∈ writtenWords r)
    (hw : w ∈ writtenWords r) : u.1 < w.1 + 256 := by
  unfold writtenWords at hu hw
  simp only [presentable, Bool.and_eq_true, decide_eq_true_eq] at hp
  cases hb : r.body with
  | read n => simp [hb] at hu
  | write px =>
    simp only [hb] at hu hw
    have h1 := unmaskedWords_range _ _ _ hu
    have h2 := unmaskedWords_range _ _ _ hw
    simp only [hb, bodyCount] at hp
    omega

/-- A word that a request writes at an address is one of its written words. -/
theorem wordWrittenAt_mem {r : Request} {a : Nat} {w : Pixel} (h : wordWrittenAt r a = some w) :
    (a, w) ∈ writtenWords r := by
  unfold wordWrittenAt at h
  cases hf : (writtenWords r).find? (fun w => w.1 == a) with
  | none => simp [hf] at h
  | some u =>
    have h1 := List.mem_of_find?_eq_some hf
    have h2 := List.find?_some hf
    simp only [hf, Option.map_some, Option.some.injEq] at h
    simp only [beq_iff_eq] at h2
    subst h h2
    exact h1

/-- R10: one presentable write reaches at most one of the watch points. -/
theorem watchPoints_apart {r : Request} (hp : presentable r = true) :
    (writesNoticeRecord r = true → wordWrittenAt r commandWordAddress = none ∧ writesTableArea r = false) ∧
      (writesTableArea r = true → wordWrittenAt r commandWordAddress = none ∧
        wordWrittenAt r noticeRecordAddress = none) := by
  have table : ∀ {w}, writesTableArea r = true → ¬ wordWrittenAt r commandWordAddress = some w ∧
      ¬ wordWrittenAt r noticeRecordAddress = some w := by
    intro w ht
    unfold writesTableArea at ht
    simp only [List.any_eq_true, Bool.and_eq_true, decide_eq_true_eq] at ht
    obtain ⟨u, hu, hlo, _⟩ := ht
    refine ⟨fun h => ?_, fun h => ?_⟩
    · have := writtenWords_close hp hu (wordWrittenAt_mem h)
      simp only [commandWordAddress, tableAreaBase] at this hlo; omega
    · have := writtenWords_close hp hu (wordWrittenAt_mem h)
      simp only [noticeRecordAddress, tableAreaBase] at this hlo; omega
  refine ⟨fun hn => ?_, fun ht => ⟨?_, ?_⟩⟩
  · obtain ⟨v, hv⟩ := Option.isSome_iff_exists.1 hn
    refine ⟨?_, ?_⟩
    · cases hc : wordWrittenAt r commandWordAddress with
      | none => rfl
      | some w =>
        have := writtenWords_close hp (wordWrittenAt_mem hv) (wordWrittenAt_mem hc)
        simp only [commandWordAddress, noticeRecordAddress] at this; omega
    · cases ht : writesTableArea r with
      | false => rfl
      | true => exact absurd hv (table ht).2
  · cases hc : wordWrittenAt r commandWordAddress with
    | none => rfl
    | some w => exact absurd hc (table ht).1
  · cases hc : wordWrittenAt r noticeRecordAddress with
    | none => rfl
    | some w => exact absurd hc (table ht).2

/-- R153, R177: the host's write of the command word reaches the command block alone, with the word's three fields. -/
theorem admit_command {p : Port} {tag : Tag} {s : State} (seq code : Byte) (arg : BitVec 16)
    (ht : TakesTag p tag s) :
    admitRequest p (commandRequest tag seq code arg) s =
      let t := forwarded p (commandRequest tag seq code arg) s
      if seq = s.cmd.lastSeq then t
      else runCommand seq code arg (onCmd (fun c => { c with lastSeq := seq }) t) := by
  have hw : admittedWindow (commandRequest tag seq code arg) = some .system := by
    simp [admittedWindow, commandRequest, windowOf, windowLast, lastByte, bodyCount]
  have hc : wordWrittenAt (commandRequest tag seq code arg) commandWordAddress = some (arg ++ code ++ seq) := by
    simp [wordWrittenAt, commandRequest, writtenWords, unmaskedWords, commandWordAddress]
  have hn : wordWrittenAt (commandRequest tag seq code arg) noticeRecordAddress = none := by
    simp [wordWrittenAt, commandRequest, writtenWords, unmaskedWords, noticeRecordAddress]
  have ha : writesTableArea (commandRequest tag seq code arg) = false := by
    simp [writesTableArea, commandRequest, writtenWords, unmaskedWords, tableAreaBase]
  have e1 : ∀ i, (arg ++ code ++ seq : Pixel).getLsbD i =
      if i < 8 then seq.getLsbD i else (arg ++ code : BitVec (16 + 8)).getLsbD (i - 8) := fun i => BitVec.getLsbD_append
  have e2 : ∀ i, (arg ++ code : BitVec (16 + 8)).getLsbD i =
      if i < 8 then code.getLsbD i else arg.getLsbD (i - 8) := fun i => BitVec.getLsbD_append
  have h0 : commandSeq (arg ++ code ++ seq) = seq := by
    apply BitVec.eq_of_getLsbD_eq; intro i hi
    simp [commandSeq, pixelByte, hi, e1]
  have h1 : commandCode (arg ++ code ++ seq) = code := by
    apply BitVec.eq_of_getLsbD_eq; intro i hi
    simp [commandCode, pixelByte, hi, e1, e2]
  have h2 : commandArg (arg ++ code ++ seq) = arg := by
    apply BitVec.eq_of_getLsbD_eq; intro i hi
    have x1 : ¬ 16 + i < 8 := by omega
    have x2 : ¬ 16 + i - 8 < 8 := by omega
    have x3 : 16 + i - 8 - 8 = i := by omega
    simp [commandArg, hi, e1, e2, x1, x2, x3]
  rw [admit_system (r := commandRequest tag seq code arg) ht hw]
  simp [reportWatched, hn, ha, hc, reportCommandWord, h0, h1, h2]

/-! ## Aborts (R19, R151) -/

/-- R19, R151: what RESTART leaves of a port. -/
theorem abortWaiting_port (q : Port) (s : State) : portOf q (abortWaiting s) = { portOf q s with
    place := placeAfterAbort (portOf q s)
    tags := (portOf q s).tags ++ ((placeAborts (portOf q s)).map (·.tag)).filter fun t => !(portOf q s).tags.contains t
    ready := appendGroup (portOf q s).ready ((placeAborts (portOf q s)).map abortedRequest ++ heldAborts q s) } := by
  cases q <;> rfl

/-- R19: the requests aborted at once are the held ones and those of the intake places that are answered. -/
theorem mem_abortedKeys {q : Port} {k : Tag} {s : State} : (q, k) ∈ abortedKeys s ↔
    (q, k) ∈ s.engine.hold ∨ ∃ r ∈ placeAborts (portOf q s), r.tag = k := by
  cases q <;> simp [abortedKeys, portOf]

/-- R19: what an intake place gives to be answered is the request that stands in it. -/
theorem placeAborts_request {q : PortState} {r : Request} (h : r ∈ placeAborts q) : placeRequest q.place = some r := by
  unfold placeAborts at h
  split at h
  · cases h
  · split at h
    · cases h
    · simp at h; subst h; simp [placeRequest, *]
  all_goals simp at h; subst h; simp [placeRequest, *]

/-! ## Sending (R2) -/

/-- The response sent carries the tag asked for. -/
theorem nextResponse_tag {p : Port} {tag : Tag} {s : State} {rr : ReadyResponse} (h : nextResponse p tag s = some rr) :
    rr.response.tag = tag := by
  unfold nextResponse at h
  split at h
  · simp at h
  · simpa using List.find?_some h

/-- A place without the abort mark leaves a sending nothing to answer (R19). -/
theorem abortAfterTag_none {p : Port} {tag : Tag} {s : State} (h : ∀ q, (portOf p s).place ≠ .waitTag q true) :
    abortAfterTag p tag s = s := by
  unfold abortAfterTag
  split
  · rename_i r hr; exact absurd hr (h r)
  · rfl

/-- R2, R107: sending a response that is no old write's, with no request waiting to be aborted: the response leaves its
port, its tag is free, its context discarded, and what its origin reports is reported. -/
theorem sendResponse_plain {p : Port} {tag : Tag} {s : State} {rr : ReadyResponse} (h : rr.response.tag = tag)
    (ho : (p, tag) ∉ s.ctrl.oldWrites) (hp : ∀ q, (portOf p s).place ≠ .waitTag q true) :
    sendResponse p rr s = reportSent p rr
      { setPort p { portOf p s with ready := withoutSent tag (portOf p s).ready, tags := (portOf p s).tags.erase tag
                                    sent := some rr.response } s with
        contexts := s.contexts.filter fun c => !(c.port == p && c.tag == tag) } := by
  have hport : ∀ x : State, portOf p (reportSent p rr x) = portOf p x := by intro x; cases p <;> simp [portOf]
  unfold sendResponse
  simp only [h]
  rw [leaveOldWrites, if_neg (by simpa [dropContext] using ho), abortAfterTag_none]
  · simp [dropContext]
  · intro q
    rw [hport]
    have : portOf p (dropContext (p, tag) (setPort p { portOf p s with
      ready := withoutSent tag (portOf p s).ready, tags := (portOf p s).tags.erase tag, sent := some rr.response } s))
      = { portOf p s with ready := withoutSent tag (portOf p s).ready, tags := (portOf p s).tags.erase tag
                          sent := some rr.response } := by cases p <;> rfl
    rw [this]
    exact hp q

end Sys2Proof.Machine
end

