-- ==== Sys2Proof/Laws/Monitor.lean ====
section
/-!
SUPPORT. What the clock's and the posture monitor's operations do: the end of a poll, matching, the hinges. One lemma per
operation, which says all it can do.
-/
namespace Sys2Proof.Machine

/-! ## The clock (log 3) -/

/-- An event at a time that no running timer precedes happens with the clock at that time. -/
theorem atTime_happens {t : Nat} {s : State} (h : ∀ d ∈ runningDues s, t ≤ d) (hn : s.now ≤ t) (ev : State → State) :
    atTime t s ev = .next (settleOutputs s (ev { s with now := t })) := by
  have : noneDueBefore t s = true := by simpa [noneDueBefore] using h
  simp [atTime, this, happens, clockAt, Nat.max_eq_right hn]

/-- An event that falls at one moment happens then, where the clock has not passed it. -/
theorem exactlyAt_happens {t : Nat} {s : State} (h : ∀ d ∈ runningDues s, t ≤ d) (hn : s.now ≤ t) (ev : State → State) :
    exactlyAt t s ev = .next (settleOutputs s (ev { s with now := t })) := by
  simp [exactlyAt, hn, atTime_happens h hn]

/-- An event whose moment the clock has passed is refused. -/
theorem exactlyAt_past {t : Nat} {s : State} (hn : t < s.now) (ev : State → State) :
    exactlyAt t s ev = .refused .outOfTimeOrder := by
  simp [exactlyAt, Nat.not_le.2 hn]

/-! ## Hinges (R82 to R84) -/

/-- R84: an angle joins the end of a history; beyond four the oldest leave. -/
theorem joinHistory_eq (l : List Nat) (a : Nat) : joinHistory l a = (l ++ [a]).drop (l.length + 1 - 4) := by
  unfold joinHistory
  split
  · rename_i h; rw [show l.length + 1 - 4 = 0 by omega]; rfl
  · rename_i h
    rw [show l.length + 1 - 4 = l.length - 3 by omega, List.drop_append_of_le_length (by omega)]

/-- R82, R84: what a valid reply does to a hinge. -/
theorem hingeValid_spec (a : Nat) (g : Hinge) :
    hingeValid a g =
      let angles := (g.history ++ [a]).drop (g.history.length + 1 - 4)
      if g.state = .present then { g with missRun := 0, history := angles, filtered := angles.sum / angles.length }
      else if g.validRun + 1 < 4 then { g with validRun := g.validRun + 1, history := angles }
      else { state := .present, validRun := 4, missRun := 0, history := angles
             filtered := angles.sum / angles.length } := by
  simp only [hingeValid, joinHistory_eq, meanAngle]
  cases g.state <;> simp
  all_goals
    by_cases h : g.validRun + 1 < 4
    · rw [if_neg (by omega), if_pos h]
    · rw [if_pos (by omega), if_neg h]

/-- R82, R84: what a miss does to a hinge. -/
theorem hingeMiss_spec (g : Hinge) :
    hingeMiss g =
      if g.state = .present then
        if g.missRun + 1 < 3 then { g with missRun := g.missRun + 1 }
        else { g with state := .lost, validRun := 0, missRun := 3, history := [] }
      else { g with validRun := 0 } := by
  unfold hingeMiss
  cases g.state <;> simp
  by_cases h : g.missRun + 1 < 3
  · rw [if_neg (by omega), if_pos h]
  · rw [if_pos (by omega), if_neg h]

/-- R91: the fallback timer alone may change with a hinge state. -/
theorem checkFallback_spec (s : State) :
    checkFallback s = { s with monitor := { s.monitor with fallback := (checkFallback s).monitor.fallback } } := by
  unfold checkFallback
  (repeat' split) <;> rfl

/-- R91: the fallback timer is IDLE once both hinges are PRESENT; from IDLE it starts outside LOADING once one is not; it
is kept otherwise. -/
theorem checkFallback_fallback (s : State) :
    let both := s.monitor.h1.state = .present ∧ s.monitor.h2.state = .present
    (both → (checkFallback s).monitor.fallback = .idle) ∧
    (∀ tb, ¬ both → s.ctrl.state ≠ .loading → s.monitor.fallback = .idle → s.cmd.shadow = some tb →
      (checkFallback s).monitor.fallback = .running (s.now + tb.fallbackMs * 1000)) ∧
    (¬ both → s.ctrl.state = .loading ∨ s.monitor.fallback ≠ .idle →
      (checkFallback s).monitor.fallback = s.monitor.fallback) := by
  have hb : bothPresent s.monitor = true ↔ s.monitor.h1.state = .present ∧ s.monitor.h2.state = .present := by
    simp [bothPresent]
  intro both
  refine ⟨fun h => ?_, fun tb h h1 h2 h3 => ?_, fun h h1 => ?_⟩
  · simp [checkFallback, hb.2 h, onMonitor]
  · have : ¬ bothPresent s.monitor = true := fun x => h (hb.1 x)
    simp [checkFallback, this, h1, h2, h3, onMonitor]
  · have : ¬ bothPresent s.monitor = true := fun x => h (hb.1 x)
    rcases h1 with h1 | h1
    · simp [checkFallback, this, h1]
    · unfold checkFallback
      rw [if_neg this]
      cases hf : s.monitor.fallback <;> cases s.cmd.shadow <;> simp_all

/-- R83: what a change of a hinge state raises. -/
theorem noticeHinge_spec (a b : HingeState) (s : State) :
    noticeHinge a b s = { s with notice := (noticeHinge a b s).notice } ∧
      (noticeHinge a b s).notice.counters = s.notice.counters ∧
      (kindPending (noticeHinge a b s).notice.set .hingeChange = true ↔ kindPending s.notice.set .hingeChange = true ∨
        (b ≠ a ∧ (b = .lost ∨ ∃ t, s.cmd.shadow = some t ∧ t.hingeEdge = .both))) := by
  have edge : hingeEdge s = .both ↔ ∃ t, s.cmd.shadow = some t ∧ t.hingeEdge = .both := by
    unfold hingeEdge; cases s.cmd.shadow <;> simp
  unfold noticeHinge
  split
  · rename_i h; subst h; simp
  · rename_i h
    split
    · rename_i ho
      rw [edge] at ho
      refine ⟨rfl, by simp, ?_⟩
      simp [ho, Ne.symm h]
    · rename_i ho
      rw [edge] at ho
      simp [ho]

/-- R82, R83, R91: what a hinge's new value does. -/
theorem updateHinge_spec (h : HingeId) (g : Hinge) (s : State) :
    updateHinge h g s = { s with monitor := (updateHinge h g s).monitor, notice := (updateHinge h g s).notice } ∧
      (updateHinge h g s).monitor =
        { setHinge h g s.monitor with fallback := (updateHinge h g s).monitor.fallback } ∧
      (updateHinge h g s).notice.counters = s.notice.counters ∧
      (kindPending (updateHinge h g s).notice.set .hingeChange = true ↔
        kindPending s.notice.set .hingeChange = true ∨
          (g.state ≠ (hingeOf h s.monitor).state ∧
            (g.state = .lost ∨ ∃ t, s.cmd.shadow = some t ∧ t.hingeEdge = .both))) := by
  obtain ⟨n1, n2, n3⟩ := noticeHinge_spec (hingeOf h s.monitor).state g.state (onMonitor (setHinge h g) s)
  unfold updateHinge
  dsimp only
  generalize hy : noticeHinge (hingeOf h s.monitor).state g.state (onMonitor (setHinge h g) s) = y at *
  have ym : y.monitor = setHinge h g s.monitor := by rw [n1]; rfl
  split
  · refine ⟨?_, ?_, n2, n3⟩
    · rw [n1]; rfl
    · rw [ym]
  · have hf := checkFallback_spec y
    generalize checkFallback y = z at *
    have zn : z.notice = y.notice := by rw [hf]
    refine ⟨?_, ?_, ?_, ?_⟩
    · apply State.eq_of_parts <;> try rfl
      all_goals rw [hf]; simp only; rw [n1]; rfl
    · rw [← ym]; conv => lhs; rw [hf]
    · rw [zn, n2]; rfl
    · rw [zn]; exact n3

/-- A hinge's new value does not touch the other hinge. -/
theorem hingeOf_setHinge_other {h k : HingeId} (hk : k ≠ h) (g : Hinge) (m : Monitor) :
    hingeOf k (setHinge h g m) = hingeOf k m := by
  cases h <;> cases k <;> first | rfl | exact absurd rfl hk

/-! ## Polls and matching (R79, R85 to R88) -/

/-- R79: what follows the end of a poll. -/
theorem continueRound_spec (h : HingeId) (s : State) :
    continueRound h s = { s with monitor := (continueRound h s).monitor, pins := (continueRound h s).pins } ∧
      (continueRound h s).monitor = { s.monitor with poll := (continueRound h s).monitor.poll } ∧
      (h = .h1 → (continueRound h s).monitor.poll = some { hinge := .h2, frame := 0x5B#8, frameEnd := s.now + 20 }) ∧
      (h = .h2 → (continueRound h s).monitor.poll = none ∧ (continueRound h s).pins.sensClk = .released ∧
        (continueRound h s).pins.sensDat = .released) := by
  cases h
  · refine ⟨rfl, rfl, fun _ => ?_, fun h => by cases h⟩
    have : pollFrame .h2 = 0x5B#8 := by decide
    simp [continueRound, beginPoll, this]
  · exact ⟨rfl, rfl, (fun h => by cases h), fun _ => ⟨rfl, rfl, rfl⟩⟩

/-- R87, R88: matching changes the candidate and the settle timer alone. -/
theorem runMatching_spec (s : State) :
    runMatching s = { s with monitor := { s.monitor with
      candidate := (runMatching s).monitor.candidate, settle := (runMatching s).monitor.settle } } := by
  unfold runMatching
  split
  · split
    · rfl
    · simp only [settleOnMatch]
      split
      · rfl
      · split
        · rfl
        · split
          · rfl
          · unfold startSettle; split <;> rfl
  · rfl

end Sys2Proof.Machine
end

