-- ==== Sys2Proof/Laws/Relocation.lean ====
section
/-!
SUPPORT. What the relocation engine's and the controller's operations do: promotions, takes, releases, commits. One lemma
per operation, which says all it can do.
-/
namespace Sys2Proof.Machine

/-! ## The map -/

/-- An entry read back from the map. -/
theorem entryAt_setEntry (m : List TileState) (t u : Tile) (e : TileState) :
    entryAt (setEntry m t e) u =
      if tileIndex t = tileIndex u ∧ tileIndex t < m.length then e else entryAt m u := by
  unfold entryAt setEntry
  simp only [List.getD_eq_getElem?_getD, List.getElem?_set]
  by_cases h : tileIndex t = tileIndex u
  · by_cases hl : tileIndex t < m.length
    · simp [h, h ▸ hl]
    · simp [h, h ▸ hl]
  · simp [h]

/-- Tiles with one place in the map have one entry. -/
theorem entryAt_congr {m : List TileState} {t u : Tile} (h : tileIndex t = tileIndex u) :
    entryAt m t = entryAt m u := by simp [entryAt, h]

/-- A place beyond the map reads as DONE. -/
theorem entryAt_beyond {m : List TileState} {t : Tile} (h : m.length ≤ tileIndex t) : entryAt m t = .done := by
  simp [entryAt, List.getD_eq_getElem?_getD, h]

@[simp] theorem setEntry_length (m : List TileState) (t : Tile) (e : TileState) :
    (setEntry m t e).length = m.length := by simp [setEntry]

/-- Rows of one length, laid end to end, are indexed row by row. -/
theorem getElem?_rows {α : Type} (f : Nat → Nat → α) (w : Nat) (c : Nat) (hc : c < w) :
    ∀ n r, r < n → ((List.range n).flatMap fun r => (List.range w).map (f r))[r * w + c]? = some (f r c) := by
  have len : ∀ n, ((List.range n).flatMap fun r => (List.range w).map (f r)).length = n * w := by
    intro n
    induction n with
    | zero => simp
    | succ n ih =>
      rw [List.range_succ, List.flatMap_append, List.length_append, ih]
      simp [Nat.succ_mul]
  intro n
  induction n with
  | zero => intro r h; omega
  | succ n ih =>
    intro r hr
    rw [List.range_succ, List.flatMap_append]
    by_cases h : r < n
    · have : r * w + c < n * w := by
        have : (r + 1) * w ≤ n * w := Nat.mul_le_mul_right w (by omega)
        rw [Nat.succ_mul] at this; omega
      rw [List.getElem?_append_left (by rw [len]; exact this)]
      exact ih r h
    · have : r = n := by omega
      subst this
      rw [List.getElem?_append_right (by rw [len]; omega), len]
      have : r * w + c - r * w = c := by omega
      simp [this, hc]

/-- The raster order of the panel's tiles. -/
theorem rasterTiles_getElem? {t : Tile} (h : OnPanel t) : rasterTiles[tileIndex t]? = some t := by
  have := getElem?_rows (fun r c => ({ col := c, row := r } : Tile)) 81 t.col h.1 60 t.row h.2
  exact this

theorem rasterTiles_length : rasterTiles.length = 4860 := by decide +kernel

@[simp] theorem planMap_length (target : RecordCopy) (old : Option RecordCopy) : (planMap target old).length = 4860 := by
  simp [planMap, rasterTiles_length]

/-- R126: the entry that a commit gives a tile of the panel. -/
theorem entryAt_planMap (target : RecordCopy) (old : Option RecordCopy) {t : Tile} (h : OnPanel t) :
    entryAt (planMap target old) t = planEntry target old t := by
  simp [entryAt, planMap, List.getD_eq_getElem?_getD, rasterTiles_getElem? h]

/-! ## Promotions (R145, R147) -/

/-- What promotions leave alone: the engine but for its promotion queue, the notice unit but for one counter. -/
def OnlyPromoted (s t : State) : Prop :=
  t = { s with
    engine := { s.engine with promotion := t.engine.promotion }
    notice := { s.notice with counters := { s.notice.counters with promotions := t.notice.counters.promotions } } }

theorem OnlyPromoted.refl (s : State) : OnlyPromoted s s := rfl

theorem OnlyPromoted.trans {s t u : State} (h : OnlyPromoted s t) (g : OnlyPromoted t u) : OnlyPromoted s u := by
  unfold OnlyPromoted at *
  rw [g, h]

/-- R145: what offering one tile does. -/
theorem promoteTile_spec (t : Tile) (s : State) :
    OnlyPromoted s (promoteTile t s) ∧
      ((promoteTile t s).engine.promotion = s.engine.promotion ∨
        ((promoteTile t s).engine.promotion = s.engine.promotion ++ [t] ∧
          isPending (entryAt s.engine.map t) = true ∧ t ∉ s.engine.promotion ∧ s.engine.promotion.length < 16)) ∧
      (isPending (entryAt s.engine.map t) = true →
        t ∈ (promoteTile t s).engine.promotion ∨ 16 ≤ (promoteTile t s).engine.promotion.length) := by
  unfold promoteTile
  split
  · rename_i h
    simp only [Bool.and_eq_true, Bool.not_eq_true', decide_eq_true_eq, List.contains_eq_mem,
      decide_eq_false_iff_not] at h
    exact ⟨rfl, Or.inr ⟨rfl, h.1.1, h.1.2, h.2⟩, fun _ => Or.inl (by simp)⟩
  · rename_i h
    refine ⟨rfl, Or.inl rfl, fun hp => ?_⟩
    simp only [hp, Bool.true_and, Bool.and_eq_true, Bool.not_eq_true', decide_eq_true_eq, List.contains_eq_mem,
      decide_eq_false_iff_not, not_and] at h
    by_cases hm : t ∈ s.engine.promotion
    · exact Or.inl hm
    · right; have := h hm; omega

/-- R145: what offering a list of tiles does: pending tiles join the end of the queue, each once, while it has fewer than
16; those left out found it full. -/
theorem promoteTiles_spec (ts : List BankTile) (s : State) :
    OnlyPromoted s (promoteTiles ts s) ∧
      ∃ added, (promoteTiles ts s).engine.promotion = s.engine.promotion ++ added ∧
        (∀ t ∈ added, isPending (entryAt s.engine.map t) = true ∧ ∃ bt ∈ ts, bt.tile = t) ∧
        (s.engine.promotion.Nodup → (promoteTiles ts s).engine.promotion.Nodup) ∧
        (added ≠ [] → (promoteTiles ts s).engine.promotion.length ≤ 16) ∧
        (∀ bt ∈ ts, isPending (entryAt s.engine.map bt.tile) = true →
          bt.tile ∈ (promoteTiles ts s).engine.promotion ∨ 16 ≤ (promoteTiles ts s).engine.promotion.length) := by
  induction ts generalizing s with
  | nil => exact ⟨rfl, [], by simp [promoteTiles]⟩
  | cons b bs ih =>
    obtain ⟨p1, p2, p3⟩ := promoteTile_spec b.tile s
    obtain ⟨i1, added, i2, i3, i4, i5, i6⟩ := ih (promoteTile b.tile s)
    have hm : (promoteTile b.tile s).engine.map = s.engine.map := by rw [p1]
    have hcons : promoteTiles (b :: bs) s = promoteTiles bs (promoteTile b.tile s) := rfl
    rw [hcons]
    simp only [hm] at i3 i6
    refine ⟨p1.trans i1, ?_⟩
    rcases p2 with p2 | ⟨p2, q1, q2, q3⟩
    · refine ⟨added, by rw [i2, p2], fun t ht => ?_, fun hn => i4 (by rw [p2]; exact hn), i5, ?_⟩
      · obtain ⟨h1, bt, h2, h3⟩ := i3 t ht
        exact ⟨h1, bt, List.mem_cons_of_mem _ h2, h3⟩
      · intro bt hbt hp
        rcases List.mem_cons.1 hbt with rfl | hbt
        · rw [i2]
          rcases p3 hp with h | h
          · exact Or.inl (List.mem_append_left _ h)
          · right; rw [List.length_append]; omega
        · exact i6 bt hbt hp
    · refine ⟨b.tile :: added, by rw [i2, p2, List.append_assoc]; rfl, ?_, ?_, ?_, ?_⟩
      · intro t ht
        rcases List.mem_cons.1 ht with rfl | ht
        · exact ⟨q1, b, List.mem_cons_self, rfl⟩
        · obtain ⟨h1, bt, h2, h3⟩ := i3 t ht
          exact ⟨h1, bt, List.mem_cons_of_mem _ h2, h3⟩
      · intro hn
        apply i4
        rw [p2, List.nodup_append]
        refine ⟨hn, by simp, ?_⟩
        rintro a ha c hc rfl
        simp only [List.mem_singleton] at hc
        exact q2 (hc ▸ ha)
      · intro _
        cases added with
        | nil => rw [i2, p2]; simp; omega
        | cons a as => exact i5 (by simp)
      · intro bt hbt hp
        rcases List.mem_cons.1 hbt with rfl | hbt
        · left; rw [i2, p2]; simp
        · exact i6 bt hbt hp

/-- R147: what offering the held requests' tiles does. -/
theorem promoteHeld_spec (s : State) :
    OnlyPromoted s (promoteHeld s) ∧
      ∃ added, (promoteHeld s).engine.promotion = s.engine.promotion ++ added ∧
        (∀ t ∈ added, isPending (entryAt s.engine.map t) = true) ∧
        (s.engine.promotion.Nodup → (promoteHeld s).engine.promotion.Nodup) ∧
        (added ≠ [] → (promoteHeld s).engine.promotion.length ≤ 16) := by
  have main : ∀ (l : List Key) (s : State),
      OnlyPromoted s (l.foldl (fun t key => match contextOf key t with
        | none => t
        | some c => promoteTiles c.tiles t) s) ∧
      ∃ added, (l.foldl (fun t key => match contextOf key t with
        | none => t
        | some c => promoteTiles c.tiles t) s).engine.promotion = s.engine.promotion ++ added ∧
        (∀ t ∈ added, isPending (entryAt s.engine.map t) = true) ∧
        (s.engine.promotion.Nodup → (l.foldl (fun t key => match contextOf key t with
        | none => t
        | some c => promoteTiles c.tiles t) s).engine.promotion.Nodup) ∧
        (added ≠ [] → (l.foldl (fun t key => match contextOf key t with
        | none => t
        | some c => promoteTiles c.tiles t) s).engine.promotion.length ≤ 16) := by
    intro l
    induction l with
    | nil => intro s; exact ⟨rfl, [], by simp⟩
    | cons k ks ih =>
      intro s
      simp only [List.foldl_cons]
      cases hc : contextOf k s with
      | none => exact ih s
      | some c =>
        obtain ⟨p1, a1, p2, p3, p4, p5, _⟩ := promoteTiles_spec c.tiles s
        obtain ⟨i1, a2, i2, i3, i4, i5⟩ := ih (promoteTiles c.tiles s)
        have hm : (promoteTiles c.tiles s).engine.map = s.engine.map := by rw [p1]
        rw [hm] at i3
        refine ⟨p1.trans i1, a1 ++ a2, by rw [i2, p2, List.append_assoc], ?_, fun hn => i4 (p4 hn), ?_⟩
        · intro t ht
          rcases List.mem_append.1 ht with ht | ht
          · exact (p3 t ht).1
          · exact i3 t ht
        · intro hne
          cases a2 with
          | nil =>
            cases a1 with
            | nil => simp at hne
            | cons x xs => have := p5 (by simp); rw [i2]; simpa using this
          | cons x xs => exact i5 (by simp)
  exact main s.engine.hold s

/-! ## Takes (R130, R131) -/

/-- What a take leaves of an entry: as it was, or in operation in the buffer. -/
def EntryTaken (b : BufferId) (s t : State) (u : Tile) : Prop :=
  entryAt t.engine.map u = entryAt s.engine.map u ∨ entryAt t.engine.map u = takenBy b (entryAt s.engine.map u)

/-- R131, R134, R135: what beginning a tile's operation does. -/
theorem startTile_spec (b : BufferId) (t : Tile) (s : State) :
    (startTile b t s).engine.cursor = s.engine.cursor ∧ (startTile b t s).engine.promotion = s.engine.promotion ∧
      (startTile b t s).engine.hold = s.engine.hold ∧ (startTile b t s).engine.lastIssuer = s.engine.lastIssuer ∧
      (startTile b t s).engine.map.length = s.engine.map.length ∧ ∀ u, EntryTaken b s (startTile b t s) u := by
  have key : ∀ (e : TileState) (u : Tile), e = takenBy b (entryAt s.engine.map t) →
      entryAt (setEntry s.engine.map t e) u = entryAt s.engine.map u ∨
        entryAt (setEntry s.engine.map t e) u = takenBy b (entryAt s.engine.map u) := by
    intro e u he
    rw [entryAt_setEntry]
    split
    · rename_i h; right; rw [he, entryAt_congr h.1]
    · exact Or.inl rfl
  unfold startTile EntryTaken
  split
  · rename_i m hm
    refine ⟨by simp, by simp, by simp, by simp, by simp, fun u => ?_⟩
    simpa using key (.moving m b) u (by rw [hm]; rfl)
  · rename_i k hk
    refine ⟨by simp, by simp, by simp, by simp, by simp, fun u => ?_⟩
    simpa using key (.filling k b) u (by rw [hk]; rfl)
  · simp

/-- R131: what a buffer's take does, beside what `takeTile_keeps` says it leaves. -/
theorem takeTile_spec (b : BufferId) (s : State) :
    (takeTile b s).engine.hold = s.engine.hold ∧ (takeTile b s).engine.lastIssuer = s.engine.lastIssuer ∧
      (takeTile b s).engine.map.length = s.engine.map.length ∧ (∀ u, EntryTaken b s (takeTile b s) u) ∧
      (takeTile b s).notice = { s.notice with
        counters := { s.notice.counters with promotions := (takeTile b s).notice.counters.promotions } } ∧
      (s.engine.promotion.length ≤ 16 → (takeTile b s).engine.promotion.length ≤ 16) ∧
      (s.engine.promotion.Nodup → (takeTile b s).engine.promotion.Nodup) := by
  unfold takeTile
  split
  · split
    · rename_i t ht
      obtain ⟨h1, h2, h3, h4, h5, h6⟩ :=
        startTile_spec b t (onEngine (fun e => { e with promotion := e.promotion.erase t }) s)
      have hn : (startTile b t (onEngine (fun e => { e with promotion := e.promotion.erase t }) s)).notice = s.notice := by
        simp
      obtain ⟨p1, added, p2, p3, p4, p5⟩ :=
        promoteHeld_spec (startTile b t (onEngine (fun e => { e with promotion := e.promotion.erase t }) s))
      generalize startTile b t (onEngine (fun e => { e with promotion := e.promotion.erase t }) s) = x at *
      have e1 : (promoteHeld x).engine = { x.engine with promotion := (promoteHeld x).engine.promotion } := by
        conv => lhs; rw [p1]
      have e2 : (promoteHeld x).notice = { x.notice with counters := { x.notice.counters with
          promotions := (promoteHeld x).notice.counters.promotions } } := by
        conv => lhs; rw [p1]
      refine ⟨by rw [e1]; simpa using h3, by rw [e1]; simpa using h4, by rw [e1]; simpa using h5, ?_, ?_, ?_, ?_⟩
      · intro u; have := h6 u; unfold EntryTaken at *; rw [e1]; simpa using this
      · rw [hn] at e2; exact e2
      · intro hl
        cases added with
        | nil =>
          rw [p2, h2]
          simp only [onEngine_engine, List.append_nil]
          exact Nat.le_trans (List.erase_sublist.length_le) hl
        | cons a as => exact p5 (by simp)
      · intro hd
        apply p4
        rw [h2]
        simp only [onEngine_engine]
        exact hd.erase t
    · split
      · exact ⟨rfl, rfl, rfl, fun u => Or.inl rfl, rfl, id, id⟩
      · split
        · rename_i i t ht
          obtain ⟨h1, h2, h3, h4, h5, h6⟩ := startTile_spec b t (onEngine (fun e => { e with cursor := i + 1 }) s)
          refine ⟨by simpa using h3, by simpa using h4, by simpa using h5, ?_, by simp, ?_, ?_⟩
          · intro u; have := h6 u; unfold EntryTaken at *; simpa using this
          · intro hl; rw [h2]; simpa using hl
          · intro hl; rw [h2]; simpa using hl
        · exact ⟨rfl, rfl, rfl, fun u => Or.inl rfl, rfl, id, id⟩
  · exact ⟨rfl, rfl, rfl, fun u => Or.inl rfl, rfl, id, id⟩

/-- R131: what the takes of both buffers do, beside what `takeTiles_keeps` says they leave. -/
theorem takeTiles_spec (s : State) :
    (takeTiles s).engine.hold = s.engine.hold ∧ (takeTiles s).engine.lastIssuer = s.engine.lastIssuer ∧
      (takeTiles s).engine.map.length = s.engine.map.length ∧
      (∀ u, entryAt (takeTiles s).engine.map u = entryAt s.engine.map u ∨
        ∃ b, entryAt (takeTiles s).engine.map u = takenBy b (entryAt s.engine.map u)) ∧
      (takeTiles s).notice = { s.notice with
        counters := { s.notice.counters with promotions := (takeTiles s).notice.counters.promotions } } ∧
      (s.engine.promotion.length ≤ 16 → (takeTiles s).engine.promotion.length ≤ 16) ∧
      (s.engine.promotion.Nodup → (takeTiles s).engine.promotion.Nodup) := by
  obtain ⟨a1, a2, a3, a4, a5, a6, a7⟩ := takeTile_spec .tb0 s
  obtain ⟨b1, b2, b3, b4, b5, b6, b7⟩ := takeTile_spec .tb1 (takeTile .tb0 s)
  unfold takeTiles
  refine ⟨b1.trans a1, b2.trans a2, b3.trans a3, ?_, ?_, fun h => b6 (a6 h), fun h => b7 (a7 h)⟩
  · intro u
    rcases a4 u with h | h <;> rcases b4 u with g | g
    · left; rw [g, h]
    · right; exact ⟨.tb1, by rw [g, h]⟩
    · right; exact ⟨.tb0, by rw [g, h]⟩
    · right
      refine ⟨.tb0, ?_⟩
      rw [g, h]
      cases entryAt s.engine.map u <;> rfl
  · rw [b5, a5]

@[simp] theorem takeTiles_set (s : State) : (takeTiles s).notice.set = s.notice.set := by
  rw [(takeTiles_spec s).2.2.2.2.1]

/-! ## Commits (R106, R126) -/

/-- R101, R102, R106, R126: what a commit does. -/
theorem beginTransition_spec (drain : DrainKind) (target : RecordCopy) (old : Option RecordCopy) (s : State) :
    Committed drain target old s (beginTransition drain target old s) ∧
      (beginTransition drain target old s).engine.map.length = 4860 ∧
      (beginTransition drain target old s).notice.noticeWriter =
        (raiseKind .transitionBegun s.notice).noticeWriter ∧
      (s.engine.promotion.length ≤ 16 → (beginTransition drain target old s).engine.promotion.length ≤ 16) ∧
      (s.engine.promotion.Nodup → (beginTransition drain target old s).engine.promotion.Nodup) := by
  obtain ⟨x, hx, hb⟩ : ∃ x, x = raise .transitionBegun (onEngine (fun e => { e with map := planMap target old, cursor := 0 })
      (onCtrl (fun c => { c with
        target := some target, old := old, generation := c.generation + 1, oldWrites := outstandingWrites s
        drainKind := drain, state := if outstandingWrites s = [] then .relocating else .draining }) s))
      ∧ beginTransition drain target old s = takeTiles x := ⟨_, rfl, rfl⟩
  rw [hb]
  obtain ⟨t1, t2, t3, t4, t5, t6, t7⟩ := takeTiles_spec x
  have xc : x.ctrl = { s.ctrl with
      target := some target, old := old, generation := s.ctrl.generation + 1, oldWrites := outstandingWrites s
      drainKind := drain, state := if outstandingWrites s = [] then .relocating else .draining } := by
    subst hx; simp
  have xe : x.engine = { s.engine with map := planMap target old, cursor := 0 } := by subst hx; simp
  have xn : x.notice = raiseKind .transitionBegun s.notice := by subst hx; simp [raise]
  refine ⟨⟨⟨planMap target old, planMap_length _ _, fun _ h => entryAt_planMap _ _ h, ?_⟩, ?_, ?_, ⟨?_, ?_⟩, ⟨?_, ?_⟩, ?_⟩,
    ?_, ?_, ?_, ?_⟩
  · congr 1
    subst hx
    apply State.eq_of_parts <;> simp [committing, raise, raiseKind_spec]
  · simp [xc]
  · intro tile ht
    have := t4 tile
    rw [xe] at this
    simpa [entryAt_planMap target old ht] using this
  · rw [t1, xe]
  · rw [t2, xe]
  · rw [t5, xn, raiseKind_spec]
  · rw [t5, xn, raiseKind_spec]
  · subst hx
    apply State.eq_of_parts <;> simp
  · rw [t3, xe]; simp
  · rw [t5, xn]
  · intro h; exact t6 (by rw [xe]; exact h)
  · intro h; exact t7 (by rw [xe]; exact h)

/-! ## Releases (R143) -/

/-- What joining path lists in turn does. -/
theorem foldl_joinPath (l : List Key) (s : State) :
    (∀ p, portOf p (l.foldl (fun t key => joinPath key.1 (.surface key.2) t) s) =
      { portOf p s with path := (portOf p s).path ++ (l.filter fun k => k.1 = p).map fun k => .surface k.2 }) ∧
    l.foldl (fun t key => joinPath key.1 (.surface key.2) t) s =
      { s with up0 := (l.foldl (fun t key => joinPath key.1 (.surface key.2) t) s).up0
               up1 := (l.foldl (fun t key => joinPath key.1 (.surface key.2) t) s).up1 } := by
  induction l generalizing s with
  | nil => simp
  | cons k ks ih =>
    simp only [List.foldl_cons]
    obtain ⟨h1, h2⟩ := ih (joinPath k.1 (.surface k.2) s)
    constructor
    · intro p; rw [h1]; obtain ⟨q, tag⟩ := k; cases q <;> cases p <;> simp [joinPath, setPort, portOf]
    · rw [h2]; obtain ⟨q, tag⟩ := k; cases q <;> simp [joinPath, setPort, portOf]

/-- R143: the held requests whose tiles are all finished join their ports' path lists in entry order; the others stay. -/
theorem releaseHeld_spec (s : State) :
    (∀ p, portOf p (releaseHeld s) = { portOf p s with path := (portOf p s).path ++
      ((s.engine.hold.filter (heldFinished s)).filter fun k => k.1 = p).map fun k => .surface k.2 }) ∧
    releaseHeld s = { s with
      up0 := (releaseHeld s).up0, up1 := (releaseHeld s).up1
      engine := { s.engine with hold := s.engine.hold.filter fun k => !heldFinished s k } } := by
  unfold releaseHeld
  obtain ⟨h1, h2⟩ := foldl_joinPath (s.engine.hold.filter (heldFinished s))
    (onEngine (fun e => { e with hold := s.engine.hold.filter fun k => !heldFinished s k }) s)
  refine ⟨fun p => ?_, ?_⟩
  · rw [h1]; cases p <;> rfl
  · rw [h2]; rfl

/-! ## Promotion and the hold queue (R131, R142, R145) -/

/-- R131: with both buffers busy no tile is taken. -/
theorem takeTiles_busy {s : State} (h0 : s.engine.tb0 ≠ .empty) (h1 : s.engine.tb1 ≠ .empty) : takeTiles s = s := by
  have h : ∀ b, takeTile b s = s := by
    intro b
    have hb : bufferOf b s.engine ≠ .empty := by cases b <;> assumption
    unfold takeTile
    split
    · rename_i he; exact absurd he hb
    · rfl
  simp [takeTiles, h]

/-- Counting one and then `n` is counting `n + 1`. -/
theorem addCount_one_add (n : Nat) (c : Counter) : addCount n (addCount 1 c) = addCount (n + 1) c := by
  unfold addCount
  simp only
  have : min 65535 (min 65535 (c.value + 1) + n) = min 65535 (c.value + (n + 1)) := by omega
  rw [this]
  congr 1
  cases hs : c.saturated
  · simp only [Bool.false_or]
    by_cases h : min 65535 (c.value + 1) = 65535
    · have h2 : min 65535 (c.value + (n + 1)) = 65535 := by omega
      simp [h, h2]
    · simp [h]
  · simp

/-- Dropping repeats and filtering commute. -/
theorem dropRepeats_filter {α : Type} [DecidableEq α] (p : α → Bool) : ∀ l : List α,
    dropRepeats (l.filter p) = (dropRepeats l).filter p := by
  intro l
  induction l with
  | nil => rfl
  | cons a as ih =>
    simp only [List.filter_cons, dropRepeats]
    by_cases h : p a = true
    · simp [h, dropRepeats, ih, List.filter_filter, Bool.and_comm]
    · simp only [h, if_false, ih, List.filter_filter, Bool.false_eq_true]
      apply List.filter_congr
      intro x _
      by_cases hx : x = a
      · subst hx; simp [h]
      · simp [hx]

/-- R145: one tile after another joins the queue. -/
theorem promoted_cons (t : Tile) (added : List Tile) (s : State) :
    promoted added (promoted [t] s) = promoted (t :: added) s := by
  cases added with
  | nil => simp [promoted]
  | cons a as => simp [promoted, addCount_one_add]

/-- R145: what offering the tiles of a request for promotion does. -/
theorem promoteTiles_eq (ts : List BankTile) : ∀ s : State, promoteTiles ts s = promoted (joining ts s) s := by
  induction ts with
  | nil => intro s; simp [promoteTiles, joining, promoted, dropRepeats]
  | cons bt ts ih =>
    intro s
    have e : promoteTiles (bt :: ts) s = promoteTiles ts (promoteTile bt.tile s) := rfl
    rw [e, ih]
    by_cases hq : (isPending (entryAt s.engine.map bt.tile) && !s.engine.promotion.contains bt.tile) = true
    · by_cases hl : s.engine.promotion.length < 16
      · have et : promoteTile bt.tile s = promoted [bt.tile] s := by
          unfold promoteTile
          rw [if_pos (by simp only [hq, Bool.true_and, decide_eq_true_eq]; exact hl)]
          simp [promoted, countEvent, onNotice, onEngine, countIn]
        have hj : joining (bt :: ts) s = bt.tile :: joining ts (promoted [bt.tile] s) := by
          obtain ⟨m, hm⟩ : ∃ m, 16 - s.engine.promotion.length = m + 1 := ⟨15 - s.engine.promotion.length, by omega⟩
          have hm' : 16 - (s.engine.promotion ++ [bt.tile]).length = m := by simp; omega
          simp only [joining, promoted, List.map_cons, List.filter_cons, hq, if_true, dropRepeats, hm, hm',
            List.take_succ_cons, ← dropRepeats_filter, List.filter_filter]
          congr 3
          apply List.filter_congr
          intro x _
          by_cases hx : x = bt.tile <;> simp [hx, List.contains_eq_mem, Bool.and_comm]
        rw [et, hj, promoted_cons]
      · have h0 : 16 - s.engine.promotion.length = 0 := by omega
        have et : promoteTile bt.tile s = s := by simp [promoteTile, hl]
        rw [et]
        simp [joining, h0]
    · have et : promoteTile bt.tile s = s := by
        unfold promoteTile
        exact if_neg (by intro h; rw [Bool.and_eq_true] at h; exact hq h.1)
      rw [Bool.not_eq_true] at hq
      have hj : joining (bt :: ts) s = joining ts s := by
        simp only [joining, List.map_cons, List.filter_cons, hq, Bool.false_eq_true, if_false]
      rw [et, hj]

/-- Two lists of tiles are offered one after the other. -/
theorem promoteTiles_append (a b : List BankTile) (s : State) :
    promoteTiles (a ++ b) s = promoteTiles b (promoteTiles a s) := by simp [promoteTiles, List.foldl_append]

/-- R147: offering the held requests' tiles again promotes as many of them as the queue has room for, the oldest request's
first. -/
theorem promoteHeld_eq (s : State) : promoteHeld s =
    promoted (joining (s.engine.hold.flatMap fun key => (contextOf key s).elim [] (·.tiles)) s) s := by
  have main : ∀ (l : List Key) (t : State), t.contexts = s.contexts →
      l.foldl (fun t key => match contextOf key t with
        | none => t
        | some c => promoteTiles c.tiles t) t =
        promoteTiles (l.flatMap fun key => (contextOf key s).elim [] (·.tiles)) t := by
    intro l
    induction l with
    | nil => intro t _; rfl
    | cons k ks ih =>
      intro t ht
      have hk : contextOf k t = contextOf k s := by simp [contextOf, ht]
      rw [List.foldl_cons, List.flatMap_cons, promoteTiles_append, hk]
      cases contextOf k s with
      | none => exact ih t ht
      | some c => exact ih _ (by simpa using ht)
  rw [← promoteTiles_eq]
  exact main s.engine.hold s rfl

/-- R142, R145: a request enters the hold queue. -/
theorem enterHold_eq (key : Key) (c : Context) (s : State) : enterHold key c.tiles s = takeTiles (enteredHold key c s) := by
  unfold enterHold
  rw [promoteTiles_eq]
  simp [enteredHold, promoted, joining, countEvent, onNotice, onEngine, countIn]

/-! ## In-tile offsets (R128, R136) -/

/-- R128: the two offset tables are each the other read backwards, within the 40 by 40 pixels of a tile. -/
theorem offsets_inverse (p : Pane) {a b : Nat} (ha : a < 40) (hb : b < 40) :
    (placeOffset p a b).1 < 40 ∧ (placeOffset p a b).2 < 40 ∧
      logicalOffset p (placeOffset p a b).1 (placeOffset p a b).2 = (a, b) ∧
      (logicalOffset p a b).1 < 40 ∧ (logicalOffset p a b).2 < 40 ∧
      placeOffset p (logicalOffset p a b).1 (logicalOffset p a b).2 = (a, b) := by
  cases hm : p.mirror <;> cases ho : p.orient <;> simp [placeOffset, logicalOffset, hm, ho] <;> omega

end Sys2Proof.Machine
end

