-- ==== Sys2Proof/Laws/Events.lean ====
section
/-!
SUPPORT. What whole events do: an examined answer, a command word, the offers of the plan, a commit, the flip and the
frame boundary.
-/
namespace Sys2Proof.Machine

/-- An examined answer is handed to the meaning of its row. -/
theorem withAnswer_examined {a : Answer} {f : InFlight} {rest : List InFlight} {s : State} (h : AnswerIsNext a f rest s)
    (k : InFlight → Option State) :
    withAnswer a s k = match k f with | none => .refused .answerNotNext | some t => happens s t := by
  obtain ⟨h1, h2, h3⟩ := h
  cases hk : k f <;> simp [withAnswer, h1, h2, h3, hk]

/-- The oldest request leaves DN at its answer. -/
theorem popInFlight_examined {a : Answer} {f : InFlight} {rest : List InFlight} {s : State} (h : AnswerIsNext a f rest s) :
    popInFlight s = { s with dn := { s.dn with inFlight := rest } } := by
  simp [popInFlight, h.1]

/-- R1: a command word can be presented. -/
theorem commandRequest_presentable (tag : Tag) (seq code : Byte) (arg : BitVec 16) : presentable (commandRequest tag seq code arg) = true := by
  simp [presentable, commandRequest, bodyCount]

/-- R153: a command word with a new sequence is forwarded and taken. -/
theorem present_command_new {p : Port} {tag : Tag} {s : State} (h : Released s) (ht : TakesTag p tag s) (seq code : Byte) (arg : BitVec 16) (hne : seq ≠ s.cmd.lastSeq) :
   present p (commandRequest tag seq code arg) s = .next (settleOutputs s (runCommand seq code arg (onCmd (fun c => { c with lastSeq := seq }) (forwarded p (commandRequest tag seq code arg) s)))) := by
  rw [present_takes h (commandRequest_presentable tag seq code arg) ht, admit_command seq code arg ht]
  simp [hne]

/-- R153: a command word that repeats the last taken sequence is only forwarded. -/
theorem present_command_repeated {p : Port} {tag : Tag} {s : State} (h : Released s) (ht : TakesTag p tag s) (seq code : Byte) (arg : BitVec 16) (hne : seq = s.cmd.lastSeq) :
   present p (commandRequest tag seq code arg) s = .next (settleOutputs s (forwarded p (commandRequest tag seq code arg) s)) := by
  rw [present_takes h (commandRequest_presentable tag seq code arg) ht, admit_command seq code arg ht]
  simp [hne]

/-- R130: the first qualifying tile is offered. -/
theorem firstOffer_some (wanted : Tile → Bool) : ∀ (l : List Tile) (n i : Nat) (t : Tile), l[i]? = some t → wanted t = true →
   (∀ j u, j < i → l[j]? = some u → wanted u = false) → firstOffer wanted l n = some (n + i, t) := by
  intro l
  induction l with
  | nil => intro n i t h; simp at h
  | cons x xs ih =>
    intro n i t h hw hb
    cases i with
    | zero => simp at h; subst h; simp [firstOffer, hw]
    | succ i =>
      have h0 := hb 0 x (by omega) (by simp)
      simp only [firstOffer, h0]
      simp at h
      rw [if_neg (by simp), ih (n+1) i t h hw (fun j u hj hu => hb (j+1) u (by omega) (by simpa using hu))]
      congr 2; omega

/-- R130: with no qualifying tile nothing is offered. -/
theorem firstOffer_none (wanted : Tile → Bool) : ∀ (l : List Tile) (n : Nat), (∀ t ∈ l, wanted t = false) → firstOffer wanted l n = none := by
  intro l
  induction l with
  | nil => intros; rfl
  | cons x xs ih => intro n h; simp [firstOffer, h x (by simp)]; exact ih _ (fun t ht => h t (by simp [ht]))

/-- R114, R115: what the flip does, and what the pending slot makes of it. -/
theorem flip_spec (s : State) :
   let flipped := { s.ctrl with
      frontBank := otherBank s.ctrl.frontBank, active := s.ctrl.target, target := none, old := none
      panelEnable := true, state := .steady }
   let t := flip s
   t = { s with ctrl := t.ctrl, engine := t.engine, notice := t.notice } ∧ kindPending t.notice.set .layoutActive = true ∧ t.engine.hold = s.engine.hold ∧
   (s.ctrl.slot = none → t.ctrl = flipped ∧ t.engine = s.engine) ∧
      (∀ n, s.ctrl.slot = some n → (∀ tb, s.cmd.shadow = some tb → tableRecord tb n = none) →
        t.ctrl = { flipped with slot := none } ∧ t.engine = s.engine) ∧
      (∀ n tb r, s.ctrl.slot = some n → s.cmd.shadow = some tb → tableRecord tb n = some r →
        t.ctrl = { flipped with
          slot := none, target := some (copyRecord tb r), old := s.ctrl.target, generation := s.ctrl.generation + 1
          oldWrites := outstandingWrites s, drainKind := .commit
          state := if outstandingWrites s = [] then .relocating else .draining } ∧
        kindPending t.notice.set .transitionBegun = true) := by
  intro flipped t
  obtain ⟨x, hx, ht⟩ : ∃ x, x = raise .layoutActive (countEvent .transitions 1 (onCtrl (fun c => { c with
      frontBank := otherBank c.frontBank, active := c.target, target := none, old := none
      panelEnable := true, state := .steady }) s)) ∧ t = resolveSlot x := ⟨_, rfl, rfl⟩
  have xc : x.ctrl = flipped := by rw [hx]; rfl
  have xs : kindPending x.notice.set .layoutActive = true := by rw [hx]; simp
  have xe : x.engine = s.engine := by rw [hx]; rfl
  have xcmd : x.cmd = s.cmd := by rw [hx]; rfl
  have xow : outstandingWrites x = outstandingWrites s := by rw [hx]; rfl
  have xslot : x.ctrl.slot = s.ctrl.slot := by rw [xc]
  cases hs : s.ctrl.slot with
  | none =>
    have : t = x := by rw [ht]; simp [resolveSlot, xslot, hs]
    rw [this]
    refine ⟨?_, xs, by rw [xe], fun _ => ⟨xc, xe⟩, fun n h => by simp at h, fun n _ _ h => by simp at h⟩
    rw [hx]; apply State.eq_of_parts <;> simp
  | some n =>
    cases hc : (s.cmd.shadow.bind fun tb => tableRecord tb n) with
    | none =>
      have : t = onCtrl (fun c => { c with slot := none }) x := by
        rw [ht]; simp [resolveSlot, xslot, hs, commitLayout, xcmd]
        cases hsh : s.cmd.shadow with
        | none => rfl
        | some tb => simp [hsh] at hc; simp [hc]
      rw [this]
      refine ⟨?_, xs, by simp [xe], fun h => by simp at h, fun m _ _ => ⟨by simp [xc], by simp [xe]⟩, fun m tb r h1 h2 h3 => ?_⟩
      · rw [hx]; apply State.eq_of_parts <;> simp
      · simp at h1; subst h1; simp [h2, h3] at hc
    | some r0 =>
      simp [Option.bind_eq_some_iff] at hc
      obtain ⟨tb0, h1, h2⟩ := hc
      have : t = beginTransition .commit (copyRecord tb0 r0) x.ctrl.active (onCtrl (fun c => { c with slot := none }) x) := by
        rw [ht]; simp [resolveSlot, xslot, hs, commitLayout, xcmd, h1, h2, commitRecord]
      obtain ⟨⟨_, c1, c2, c3, c4, c5⟩, _, _⟩ := beginTransition_spec .commit (copyRecord tb0 r0) x.ctrl.active (onCtrl (fun c => { c with slot := none }) x)
      rw [← this] at c1 c2 c3 c4 c5
      refine ⟨?_, ?_, ?_, ?_, ?_, ?_⟩
      · rw [c5, hx]; apply State.eq_of_parts <;> simp
      · rw [c4.1]; simp [xs]
      · rw [c3.1]; simp [xe]
      · intro h; simp at h
      · intro m hm hno; simp at hm; subst hm; rw [hno tb0 h1] at h2; simp at h2
      · intro m tb r hm ht hr
        simp at hm; subst hm
        rw [h1] at ht; simp at ht; subst ht
        rw [h2] at hr; simp at hr; subst hr
        refine ⟨?_, ?_⟩
        · rw [c1]; simp [xc, flipped]
          have : outstandingWrites (onCtrl (fun c => { c with slot := none }) x) = outstandingWrites s := by rw [← xow]; rfl
          simp [this]
        · rw [c4.1]; simp

/-- R169: a frame boundary rewrites only the frame count, the counters and the counts write. -/
theorem countBoundary_spec (s : State) : let t := countBoundary s
    t = { s with notice := t.notice } ∧ t.notice.set = s.notice.set ∧ NoticeKept { s.notice with frameCount := t.notice.frameCount, counters := t.notice.counters, countsNext := t.notice.countsNext } t.notice := by
  unfold countBoundary
  dsimp only
  split
  · exact ⟨rfl, rfl, rfl⟩
  · split
    · exact ⟨rfl, rfl, rfl⟩
    · exact ⟨rfl, rfl, rfl⟩

/-- R121, R122: the test of a LOST panel's return at a FRAME_START. -/
theorem checkReturn_spec (s : State) : let t := checkReturn s
    let period := s.cmd.shadow.elim 8333 (·.framePeriod)
    let returns := s.frame.panel = .lost ∧ ∃ last, s.frame.lastStart = some last ∧ s.now - last < 2 * period
    t = { s with notice := t.notice, frame := t.frame } ∧ t.notice.counters = s.notice.counters ∧ t.notice.frameCount = s.notice.frameCount ∧ t.notice.countsNext = s.notice.countsNext ∧
      (returns → t.frame.panel = .present) ∧ (¬ returns → t.frame.panel = s.frame.panel) ∧ t.frame.lastStart = s.frame.lastStart ∧
      (∀ k, kindPending t.notice.set k = true ↔ kindPending s.notice.set k = true ∨ (k = .panelTiming ∧ 
        (returns ∧ ∃ tb, s.cmd.shadow = some tb ∧ tb.panelEdge = .both))) := by
  have hpe : panelEdge s = .both ↔ ∃ tb, s.cmd.shadow = some tb ∧ tb.panelEdge = .both := by
    unfold panelEdge; cases s.cmd.shadow <;> simp
  have hfp : framePeriod s = s.cmd.shadow.elim 8333 (·.framePeriod) := by unfold framePeriod; cases s.cmd.shadow <;> rfl
  dsimp only
  rw [← hfp]
  unfold checkReturn
  split
  · rename_i last h1 h2
    by_cases hlt : s.now - last < 2 * framePeriod s
    · have hret : (s.frame.panel = .lost ∧ ∃ last, s.frame.lastStart = some last ∧ s.now - last < 2 * framePeriod s) := ⟨h1, last, h2, hlt⟩
      rw [if_pos hlt]
      dsimp only
      by_cases hb : panelEdge s = .both
      · rw [if_pos hb]
        rw [hpe] at hb
        refine ⟨rfl, by simp, by simp [raise, raiseKind_spec], by simp [raise, raiseKind_spec], fun _ => rfl, fun hn => absurd hret hn, rfl, fun k => ?_⟩
        simp only [raise_set, kindPending_or, kindPending_kindBit, Bool.or_eq_true, decide_eq_true_eq]
        simp [hret, hb]
      · rw [if_neg hb]
        rw [hpe] at hb
        refine ⟨rfl, rfl, rfl, rfl, fun _ => rfl, fun hn => absurd hret hn, rfl, fun k => ?_⟩
        simp [hb]
    · rw [if_neg hlt]
      have hret : ¬ (s.frame.panel = .lost ∧ ∃ last, s.frame.lastStart = some last ∧ s.now - last < 2 * framePeriod s) := by
        rintro ⟨_, l, hl, hl2⟩; rw [h2] at hl; cases hl; exact hlt hl2
      refine ⟨rfl, rfl, rfl, rfl, fun h => absurd h hret, fun _ => rfl, rfl, fun k => ?_⟩
      simp [hret]
  · rename_i hno
    have hret : ¬ (s.frame.panel = .lost ∧ ∃ last, s.frame.lastStart = some last ∧ s.now - last < 2 * framePeriod s) := by
      rintro ⟨h1, l, hl, hl2⟩; exact hno l h1 hl
    refine ⟨rfl, rfl, rfl, rfl, fun h => absurd h hret, fun _ => rfl, rfl, fun k => ?_⟩
    simp [hret]

/-- R110: the resolution of the pending slot. -/
theorem resolveSlot_spec (s : State) : SlotResolved s (resolveSlot s) := by
  constructor
  · intro h; simp [resolveSlot, h]
  · intro n h hno
    simp only [resolveSlot, h, commitLayout]
    cases hs : s.cmd.shadow with
    | none => simp [onCtrl, hs]
    | some tb => simp [onCtrl, hs, hno tb hs]
  · intro n tb r h hs hr
    have : resolveSlot s = beginTransition .commit (copyRecord tb r) s.ctrl.active { s with ctrl := { s.ctrl with slot := none } } := by
      simp [resolveSlot, h, commitLayout, onCtrl, hs, hr, commitRecord]
    rw [this]
    exact (beginTransition_spec _ _ _ _).1

/-- R109: a layout request's action on the pending slot. -/
theorem slotRequest_eq (current : Option Nat) (n : Nat) (s : State) : slotRequest current n s = slotTakes current n s := by
  unfold slotRequest slotTakes
  by_cases h0 : current = some n
  · simp [h0, onCtrl]
  · simp only [h0, if_false]
    cases hs : s.ctrl.slot with
    | none => simp [onCtrl]
    | some m =>
      by_cases hm : m = n
      · subst hm
        apply State.eq_of_parts <;> simp [← hs]
      · apply State.eq_of_parts <;> simp [hm, onCtrl, countEvent, onNotice, countIn, h0]

/-- R114, R115: the flip is the exchange of the banks and then the resolution of the slot. -/
theorem flip_eq (s : State) : flip s = resolveSlot (flipped s) := by
  simp [flip, flipped, raise, countEvent, onNotice, onCtrl, countIn]

/-- R112: what the completion test asks. -/
theorem relocationComplete_iff (e : Engine) : relocationComplete e = true ↔
    (∀ x ∈ e.map, isFinished x = true) ∧ e.tb0 = .empty ∧ e.tb1 = .empty ∧ e.hold = [] := by
  simp [relocationComplete, and_assoc]

/-- R112, R113: the completion test moves RELOCATING to FLIP_WAIT, where with panel timing LOST the flip is taken. -/
theorem completionTest_spec (s : State) :
    let waits := { s with ctrl := { s.ctrl with state := .flipWait } }
    completionTest s =
      if s.ctrl.state = .relocating ∧ relocationComplete s.engine = true then
        if s.frame.panel = .lost then flip waits else waits
      else s := by
  unfold completionTest
  cases h : s.frame.panel <;> simp [h, onCtrl]

end Sys2Proof.Machine
end

