-- ==== Sys2Proof/Laws/Ready.lean ====
section
/-!
SUPPORT. The order of the ready writes: what the shared operations leave of it, and what the end of an event makes of it.
-/
namespace Sys2Proof.Machine

@[simp] theorem raiseKind_readyQueue (k : NoticeKind) (n : NoticeUnit) : (raiseKind k n).readyQueue = n.readyQueue := by
  unfold raiseKind; split <;> rfl

@[simp] theorem acknowledgeWord_readyQueue (w : Pixel) (n : NoticeUnit) :
    (acknowledgeWord w n).readyQueue = n.readyQueue := by
  unfold acknowledgeWord; dsimp only; split <;> rfl

@[simp] theorem noticeRestart_readyQueue (n : NoticeUnit) : (noticeRestart n).readyQueue = n.readyQueue := by
  unfold noticeRestart clearKinds; split <;> rfl

@[simp] theorem transferCounts_readyQueue (rs : List Byte) (n : NoticeUnit) :
    (transferCounts rs n).readyQueue = n.readyQueue := rfl

variable (s : State)

@[simp] theorem raise_readyQueue (k : NoticeKind) : (raise k s).notice.readyQueue = s.notice.readyQueue := by simp [raise]

@[simp] theorem countMemoryError_readyQueue : (countMemoryError s).notice.readyQueue = s.notice.readyQueue := by
  simp [countMemoryError, countEvent]

@[simp] theorem respond_readyQueue (seq : Byte) (r : CommandResult) (d : BitVec 16) :
    (respond seq r d s).notice.readyQueue = s.notice.readyQueue := rfl

@[simp] theorem hostWriteDone_readyQueue (k : Key) : (hostWriteDone k s).notice.readyQueue = s.notice.readyQueue := rfl

@[simp] theorem promoteTile_readyQueue (t : Tile) :
    (promoteTile t s).notice.readyQueue = s.notice.readyQueue := by
  unfold promoteTile; (repeat' split) <;> simp

@[simp] theorem promoteTiles_readyQueue (ts : List BankTile) :
    (promoteTiles ts s).notice.readyQueue = s.notice.readyQueue := by
  unfold promoteTiles; exact foldl_keeps (·.notice.readyQueue) _ (fun t a => by simp) _ _

@[simp] theorem promoteHeld_readyQueue :
    (promoteHeld s).notice.readyQueue = s.notice.readyQueue := by
  unfold promoteHeld; exact foldl_keeps (·.notice.readyQueue) _ (fun t k => by split <;> simp) _ _

@[simp] theorem takeTile_readyQueue (b : BufferId) :
    (takeTile b s).notice.readyQueue = s.notice.readyQueue := by
  unfold takeTile; (repeat' split) <;> simp

@[simp] theorem takeTiles_readyQueue :
    (takeTiles s).notice.readyQueue = s.notice.readyQueue := by
  simp [takeTiles]

@[simp] theorem enterHold_readyQueue (k : Key) (ts : List BankTile) :
    (enterHold k ts s).notice.readyQueue = s.notice.readyQueue := by
  simp [enterHold]

@[simp] theorem beginTransition_readyQueue (d : DrainKind) (r : RecordCopy) (o : Option RecordCopy) :
    (beginTransition d r o s).notice.readyQueue = s.notice.readyQueue := by
  simp [beginTransition]

@[simp] theorem commitRecord_readyQueue (t : Table) (r : LayoutRecord) :
    (commitRecord t r s).notice.readyQueue = s.notice.readyQueue := by
  simp [commitRecord]

@[simp] theorem commitLayout_readyQueue (n : Nat) :
    (commitLayout n s).notice.readyQueue = s.notice.readyQueue := by
  unfold commitLayout; (repeat' split) <;> simp

@[simp] theorem resolveSlot_readyQueue :
    (resolveSlot s).notice.readyQueue = s.notice.readyQueue := by
  unfold resolveSlot; (repeat' split) <;> simp

@[simp] theorem flip_readyQueue :
    (flip s).notice.readyQueue = s.notice.readyQueue := by
  simp [flip]

@[simp] theorem completionTest_readyQueue :
    (completionTest s).notice.readyQueue = s.notice.readyQueue := by
  unfold completionTest; dsimp only; (repeat' split) <;> simp

@[simp] theorem enterRelocating_readyQueue :
    (enterRelocating s).notice.readyQueue = s.notice.readyQueue := by
  simp [enterRelocating]

@[simp] theorem leaveOldWrites_readyQueue (k : Key) :
    (leaveOldWrites k s).notice.readyQueue = s.notice.readyQueue := by
  unfold leaveOldWrites; dsimp only; (repeat' split) <;> simp

@[simp] theorem slotRequest_readyQueue (c : Option Nat) (n : Nat) :
    (slotRequest c n s).notice.readyQueue = s.notice.readyQueue := by
  unfold slotRequest; (repeat' split) <;> simp

@[simp] theorem layoutRequest_readyQueue (n : Nat) :
    (layoutRequest n s).notice.readyQueue = s.notice.readyQueue := by
  unfold layoutRequest; (repeat' split) <;> simp

@[simp] theorem endLoadReplaced_readyQueue (t : Table) :
    (endLoadReplaced t s).notice.readyQueue = s.notice.readyQueue := by
  unfold endLoadReplaced; dsimp only; (repeat' split) <;> simp

@[simp] theorem endLoadKept_readyQueue :
    (endLoadKept s).notice.readyQueue = s.notice.readyQueue := by
  simp [endLoadKept]

@[simp] theorem bootCommit_readyQueue :
    (bootCommit s).notice.readyQueue = s.notice.readyQueue := by
  simp [bootCommit]

@[simp] theorem restartCommit_readyQueue :
    (restartCommit s).notice.readyQueue = s.notice.readyQueue := by
  simp [restartCommit]

@[simp] theorem reportForwarded_readyQueue (p : Port) (r : Request) (ds : List Pixel) :
    (reportForwarded p r ds s).notice.readyQueue = s.notice.readyQueue := by
  unfold reportForwarded; (repeat' split) <;> simp

@[simp] theorem reportSent_readyQueue (p : Port) (r : ReadyResponse) :
    (reportSent p r s).notice.readyQueue = s.notice.readyQueue := by
  unfold reportSent; (repeat' split) <;> simp

@[simp] theorem abortAfterTag_readyQueue (p : Port) (t : Tag) :
    (abortAfterTag p t s).notice.readyQueue = s.notice.readyQueue := by
  unfold abortAfterTag; (repeat' split) <;> simp

@[simp] theorem sendResponse_readyQueue (p : Port) (r : ReadyResponse) :
    (sendResponse p r s).notice.readyQueue = s.notice.readyQueue := by
  simp [sendResponse]

@[simp] theorem noticeHinge_readyQueue (a b : HingeState) :
    (noticeHinge a b s).notice.readyQueue = s.notice.readyQueue := by
  unfold noticeHinge; (repeat' split) <;> simp

@[simp] theorem updateHinge_readyQueue (h : HingeId) (g : Hinge) :
    (updateHinge h g s).notice.readyQueue = s.notice.readyQueue := by
  unfold updateHinge; dsimp only; (repeat' split) <;> simp

@[simp] theorem pollMiss_readyQueue (h : HingeId) :
    (pollMiss h s).notice.readyQueue = s.notice.readyQueue := by
  simp [pollMiss]

@[simp] theorem pollValid_readyQueue (h : HingeId) (a : Nat) :
    (pollValid h a s).notice.readyQueue = s.notice.readyQueue := by
  unfold pollValid; (repeat' split) <;> simp

@[simp] theorem pollReply_readyQueue (h : HingeId) (f : ReplyFrame) :
    (pollReply h f s).notice.readyQueue = s.notice.readyQueue := by
  unfold pollReply; (repeat' split) <;> simp

@[simp] theorem settleExpires_readyQueue (n : Nat) :
    (settleExpires n s).notice.readyQueue = s.notice.readyQueue := by
  unfold settleExpires; dsimp only; (repeat' split) <;> simp

@[simp] theorem fallbackExpires_readyQueue :
    (fallbackExpires s).notice.readyQueue = s.notice.readyQueue := by
  unfold fallbackExpires; dsimp only; (repeat' split) <;> simp

@[simp] theorem monitorForce_readyQueue (n : Nat) :
    (monitorForce n s).notice.readyQueue = s.notice.readyQueue := by
  simp [monitorForce]

@[simp] theorem endLoadRejected_readyQueue (q : Byte) (r : CommandResult) (d : BitVec 16) :
    (endLoadRejected q r d s).notice.readyQueue = s.notice.readyQueue := by
  simp [endLoadRejected]

@[simp] theorem endLoadTaken_readyQueue (q : Byte) (t : Table) :
    (endLoadTaken q t s).notice.readyQueue = s.notice.readyQueue := by
  simp [endLoadTaken]

@[simp] theorem endLoad_readyQueue (l : TableLoad) :
    (endLoad l s).notice.readyQueue = s.notice.readyQueue := by
  unfold endLoad; dsimp only; (repeat' split) <;> simp

@[simp] theorem loadReadFails_readyQueue (l : TableLoad) :
    (loadReadFails l s).notice.readyQueue = s.notice.readyQueue := by
  unfold loadReadFails; (repeat' split) <;> simp

@[simp] theorem loadAnswer_readyQueue (l : TableLoad) (a : Answer) :
    (loadAnswer l a s).notice.readyQueue = s.notice.readyQueue := by
  unfold loadAnswer; dsimp only; (repeat' split) <;> simp

@[simp] theorem restartLoading_readyQueue (q : Byte) :
    (restartLoading q s).notice.readyQueue = s.notice.readyQueue := by
  simp [restartLoading]

@[simp] theorem takePublish_readyQueue (q : Byte) :
    (takePublish q s).notice.readyQueue = s.notice.readyQueue := by
  unfold takePublish; (repeat' split) <;> simp

@[simp] theorem takeForce_readyQueue (q : Byte) (a : BitVec 16) :
    (takeForce q a s).notice.readyQueue = s.notice.readyQueue := by
  unfold takeForce; (repeat' split) <;> simp

@[simp] theorem takeRelease_readyQueue (q : Byte) :
    (takeRelease q s).notice.readyQueue = s.notice.readyQueue := by
  unfold takeRelease; (repeat' split) <;> simp

@[simp] theorem takeReport_readyQueue (q : Byte) :
    (takeReport q s).notice.readyQueue = s.notice.readyQueue := by
  unfold takeReport; (repeat' split) <;> simp

@[simp] theorem reportNoticeWrite_readyQueue (p : Port) (r : Request) (w : Pixel) :
    (reportNoticeWrite p r w s).notice.readyQueue = s.notice.readyQueue := by
  unfold reportNoticeWrite; dsimp only; (repeat' split) <;> simp

@[simp] theorem routeSurface_readyQueue (p : Port) (r : Request) (c : Context) :
    (routeSurface p r c s).notice.readyQueue = s.notice.readyQueue := by
  unfold routeSurface; (repeat' split) <;> simp

@[simp] theorem acceptSurface_readyQueue (p : Port) (k : Nat) (r : Request) :
    (acceptSurface p k r s).notice.readyQueue = s.notice.readyQueue := by
  unfold acceptSurface; dsimp only; (repeat' split) <;> simp

@[simp] theorem refuseRequest_readyQueue (p : Port) (r : Request) :
    (refuseRequest p r s).notice.readyQueue = s.notice.readyQueue := by
  simp [refuseRequest]

@[simp] theorem routeAgain_readyQueue (p : Port) (r : Request) :
    (routeAgain p r s).notice.readyQueue = s.notice.readyQueue := by
  unfold routeAgain; (repeat' split) <;> simp

@[simp] theorem rowReadAnswered_readyQueue (b : BufferId) (r : Reading) (a : Answer) :
    (rowReadAnswered b r a s).notice.readyQueue = s.notice.readyQueue := by
  unfold rowReadAnswered; dsimp only; (repeat' split) <;> simp

@[simp] theorem endTile_readyQueue (b : BufferId) (w : Writing) :
    (endTile b w s).notice.readyQueue = s.notice.readyQueue := by
  simp [endTile]

@[simp] theorem rowWriteAnswered_readyQueue (b : BufferId) (w : Writing) (a : Answer) :
    (rowWriteAnswered b w a s).notice.readyQueue = s.notice.readyQueue := by
  unfold rowWriteAnswered; dsimp only; (repeat' split) <;> simp

@[simp] theorem discardAnswered_readyQueue (b : BufferId) (n : Nat) :
    (discardAnswered b n s).notice.readyQueue = s.notice.readyQueue := by
  unfold discardAnswered; (repeat' split) <;> simp

@[simp] theorem dropAnswer_readyQueue (f : InFlight) :
    (dropAnswer f s).notice.readyQueue = s.notice.readyQueue := by
  unfold dropAnswer; (repeat' split) <;> simp

@[simp] theorem recordAnswered_readyQueue (w : RecordWriter) (a : Answer) :
    (recordAnswered w a s).notice.readyQueue = s.notice.readyQueue := by
  unfold recordAnswered; (repeat' split) <;> simp

@[simp] theorem responseAnswered_readyQueue (a : Answer) :
    (responseAnswered a s).notice.readyQueue = s.notice.readyQueue := by
  unfold responseAnswered; (repeat' split) <;> simp

@[simp] theorem answerReports_readyQueue (rs : List Byte) :
    (answerReports rs s).notice.readyQueue = s.notice.readyQueue := by
  unfold answerReports; exact foldl_keeps (·.notice.readyQueue) _ (fun t a => by simp) _ _

@[simp] theorem countsAnswered_readyQueue (f : CountsFlight) (a : Answer) :
    (countsAnswered f a s).notice.readyQueue = s.notice.readyQueue := by
  unfold countsAnswered; (repeat' split) <;> simp

@[simp] theorem takeAwaitedFlip_readyQueue :
    (takeAwaitedFlip s).notice.readyQueue = s.notice.readyQueue := by
  unfold takeAwaitedFlip; (repeat' split) <;> simp

@[simp] theorem countBoundary_readyQueue :
    (countBoundary s).notice.readyQueue = s.notice.readyQueue := by
  unfold countBoundary; dsimp only; (repeat' split) <;> simp

@[simp] theorem checkReturn_readyQueue :
    (checkReturn s).notice.readyQueue = s.notice.readyQueue := by
  unfold checkReturn; (repeat' split) <;> simp

@[simp] theorem frameStarts_readyQueue :
    (frameStarts s).notice.readyQueue = s.notice.readyQueue := by
  simp [frameStarts]

@[simp] theorem lossTimerExpires_readyQueue :
    (lossTimerExpires s).notice.readyQueue = s.notice.readyQueue := by
  unfold lossTimerExpires; dsimp only; (repeat' split) <;> simp

@[simp] theorem takeBootTable_readyQueue :
    (takeBootTable s).notice.readyQueue = s.notice.readyQueue := by
  unfold takeBootTable; (repeat' split) <;> simp

/-! ## RESTART (R160) -/

/-- R160, R166: what an event leaves of the order before its end: all of it, or, where it is one in which RESTART can have
discarded a response or counts write (`R`), the other writers. -/
def OrderKept (R : Prop) (s t : State) : Prop :=
  t.notice.readyQueue = s.notice.readyQueue ∨
    R ∧ ∃ stays, stays .notice = true ∧ stays .status = true ∧ t.notice.readyQueue = keepWriters stays s.notice.readyQueue

/-- Two choices of writers that stay, one after the other. -/
theorem keepWriters_twice (a b : RecordWriter → Bool) (q : List (List RecordWriter)) :
    keepWriters a (keepWriters b q) = keepWriters (fun w => b w && a w) q := by
  induction q with
  | nil => rfl
  | cons g gs ih =>
    simp only [keepWriters, List.map_cons, List.filter_cons] at ih ⊢
    by_cases h : (g.filter b).isEmpty
    · have : g.filter (fun w => b w && a w) = [] := by
        rw [List.isEmpty_iff, List.filter_eq_nil_iff] at h
        rw [List.filter_eq_nil_iff]
        intro w hw
        simp [h w hw]
      simp [h, this, ih]
    · simp only [h, Bool.not_false, if_true, List.map_cons, List.filter_cons, List.filter_filter]
      simp only [Bool.and_comm] at ih ⊢
      rw [ih]

theorem OrderKept.of_eq {R : Prop} {s t : State} (h : t.notice.readyQueue = s.notice.readyQueue) : OrderKept R s t :=
  .inl h

theorem OrderKept.mono {R R' : Prop} {s t : State} (h : OrderKept R s t) (i : R → R') : OrderKept R' s t :=
  h.imp_right fun ⟨r, x⟩ => ⟨i r, x⟩

theorem OrderKept.trans {R : Prop} {s t u : State} (h : OrderKept R s t) (g : OrderKept R t u) : OrderKept R s u := by
  rcases h with h | ⟨r, a, a1, a2, a3⟩ <;> rcases g with g | ⟨r', b, b1, b2, b3⟩
  · exact .inl (g.trans h)
  · exact .inr ⟨r', b, b1, b2, by rw [b3, h]⟩
  · exact .inr ⟨r, a, a1, a2, g.trans a3⟩
  · exact .inr ⟨r, fun w => a w && b w, by simp [a1, b1], by simp [a2, b2], by rw [b3, a3, keepWriters_twice]⟩

/-- The order read before and after is all that counts. -/
theorem OrderKept.congr {R : Prop} {s s' t : State} (h : OrderKept R s' t)
    (e : s'.notice.readyQueue = s.notice.readyQueue) : OrderKept R s t := (OrderKept.of_eq e).trans h

theorem restartRunning_order (q : Byte) : OrderKept True s (restartRunning q s) :=
  .inr ⟨trivial, fun w => w != .response && w != .counts, rfl, rfl, by simp [restartRunning, discardReports]⟩

theorem takeRestart_order (q : Byte) : OrderKept True s (takeRestart q s) := by
  unfold takeRestart
  split
  · exact .of_eq (by simp)
  · exact restartRunning_order s q

theorem runCommand_order (q c : Byte) (a : BitVec 16) : OrderKept (c = 0x0F) s (runCommand q c a s) := by
  unfold runCommand
  repeat' split
  all_goals first | exact (takeRestart_order s q).mono fun _ => ‹c = 0x0F#8› | exact .of_eq (by simp)

theorem reportCommandWord_order (w : Pixel) : OrderKept (commandCode w = 0x0F) s (reportCommandWord w s) := by
  unfold reportCommandWord
  split
  · exact .of_eq rfl
  · exact (runCommand_order _ _ _ _).congr (by simp)

theorem reportWatched_order (p : Port) (r : Request) : OrderKept (asksRestart r) s (reportWatched p r s) := by
  unfold reportWatched
  dsimp only
  split
  · rename_i w hw
    refine ((reportCommandWord_order _ w).mono fun h => ⟨w, hw, h⟩).congr ?_
    (repeat' split) <;> simp [reportTableWrite, onLoad]
  · refine .of_eq ?_
    (repeat' split) <;> simp [reportTableWrite, onLoad]

theorem acceptRequest_order (p : Port) (w : Window) (r : Request) : OrderKept (asksRestart r) s (acceptRequest p w r s) := by
  unfold acceptRequest
  split
  · exact .of_eq (by simp)
  · exact (reportWatched_order _ p r).congr (by simp)
  · exact .of_eq (by simp)

theorem admitRequest_order (p : Port) (r : Request) : OrderKept (asksRestart r) s (admitRequest p r s) := by
  unfold admitRequest
  repeat' split
  · exact .of_eq (by simp)
  · exact .of_eq (by simp)
  · exact acceptRequest_order s p _ r

theorem presentRequest_order (p : Port) (r : Request) : OrderKept (asksRestart r) s (presentRequest p r s) := by
  unfold presentRequest
  split
  · exact .of_eq (by simp)
  · exact admitRequest_order s p r

/-- A place holds a request only where the same request stood in it before. -/
def OnlyLeaves (q : Port) (s t : State) : Prop :=
  ∀ r, placeRequest (portOf q t).place = some r → placeRequest (portOf q s).place = some r

theorem OnlyLeaves.of_eq {q : Port} {s t : State} (h : (portOf q t).place = (portOf q s).place) : OnlyLeaves q s t :=
  fun _ hr => h ▸ hr

/-- R19: RESTART leaves what stands in an intake place, or empties it. -/
theorem runCommand_place (q c : Byte) (a : BitVec 16) (o : Port) : OnlyLeaves o s (runCommand q c a s) := by
  have abort : ∀ x y : State, portOf o y = portOf o (abortWaiting x) → (portOf o x).place = (portOf o s).place →
      OnlyLeaves o s y := by
    intro x y h hx r hr
    rw [h, abortWaiting_port] at hr
    rw [← hx]
    unfold placeAfterAbort at hr
    split at hr
    · rename_i w m he
      rw [he]
      split at hr
      · exact hr
      · cases hr
    · cases hr
  unfold runCommand takeRestart
  repeat' split
  · exact .of_eq (by cases o <;> simp [portOf])
  · exact .of_eq (by cases o <;> simp [portOf])
  · exact .of_eq (by cases o <;> simp [portOf])
  · exact .of_eq (by cases o <;> simp [portOf])
  · exact abort s _ (by cases o <;> simp [portOf, restartLoading]) rfl
  · refine abort (onNotice discardReports (abandonLoad s)) _ ?_ (by cases o <;> rfl)
    cases o <;> simp [portOf, restartRunning]
  · exact .of_eq (by cases o <;> simp [portOf])

theorem reportWatched_place (p : Port) (r : Request) (o : Port) : OnlyLeaves o s (reportWatched p r s) := by
  have word : ∀ (w : Pixel) (x : State), portOf o x = portOf o s → OnlyLeaves o s (reportCommandWord w x) := by
    intro w x hx
    unfold reportCommandWord
    split
    · exact .of_eq (by rw [hx])
    · intro q hq
      have := runCommand_place _ _ _ _ o q hq
      rw [← hx]
      cases o <;> exact this
  obtain ⟨x, hx⟩ : ∃ x, x = match wordWrittenAt r noticeRecordAddress with
    | some w => reportNoticeWrite p r w s
    | none => s := ⟨_, rfl⟩
  have hxp : portOf o x = portOf o s := by subst hx; split <;> cases o <;> simp [portOf]
  obtain ⟨y, hy⟩ : ∃ y, y = if writesTableArea r = true then reportTableWrite x else x := ⟨_, rfl⟩
  have hyp : portOf o y = portOf o s := by rw [← hxp, hy]; split <;> cases o <;> simp [portOf]
  have e : reportWatched p r s = match wordWrittenAt r commandWordAddress with
    | some w => reportCommandWord w y
    | none => y := by subst hy hx; rfl
  rw [e]
  split
  · exact word _ _ hyp
  · exact .of_eq (by rw [hyp])

/-- What comes to the tests of R6 at one port puts no request into the other port's place. -/
theorem admitWaiting_other (p : Port) : OnlyLeaves (otherPort p) s (admitWaiting p s) := by
  have hr : ∀ r c x, portOf (otherPort p) (routeSurface p r c x) = portOf (otherPort p) x := by
    intro r c x
    unfold routeSurface
    (repeat' split) <;> cases p <;> simp [portOf, otherPort, setPlace, joinPath, setPort]
  unfold admitWaiting
  split
  · rename_i r _
    unfold admitRequest acceptRequest
    repeat' split
    · exact .of_eq (by cases p <;> rfl)
    · exact .of_eq (by cases p <;> rfl)
    · refine .of_eq ?_
      unfold routeRaw
      split <;> cases p <;> rfl
    · intro q hq
      have := reportWatched_place _ p r (otherPort p) q hq
      cases p <;> exact this
    · refine .of_eq (congrArg PortState.place ?_)
      unfold acceptSurface
      dsimp only
      split
      · cases p <;> rfl
      · rw [hr]
        cases p <;> rfl
  · exact .of_eq rfl

theorem admitWaiting_order (p : Port) :
    OrderKept (∃ r, placeRequest (portOf p s).place = some r ∧ asksRestart r) s (admitWaiting p s) := by
  unfold admitWaiting
  split
  · rename_i r hr
    exact (admitRequest_order s p r).mono fun h => ⟨r, by rw [hr]; rfl, h⟩
  · exact .of_eq rfl

/-- R174: at the end of the boot check only a RESTART word that waits in an intake place discards a write. -/
theorem checkEnds_order (p : Port) :
    OrderKept (∃ q r, placeRequest (portOf q s).place = some r ∧ asksRestart r) s (checkEnds p s) := by
  unfold checkEnds
  obtain ⟨x, hx⟩ : ∃ x, x = bootCommit (takeBootTable s) := ⟨_, rfl⟩
  have hp : ∀ q, portOf q x = portOf q s := by intro q; subst hx; cases q <;> simp [portOf]
  have h := ((admitWaiting_order x p).mono fun ⟨r, h1, h2⟩ => (⟨p, r, by rwa [← hp], h2⟩ :
      ∃ q r, placeRequest (portOf q s).place = some r ∧ asksRestart r)).trans
    ((admitWaiting_order (admitWaiting p x) (otherPort p)).mono fun ⟨r, h1, h2⟩ =>
      ⟨otherPort p, r, by rw [← hp]; exact admitWaiting_other x p r h1, h2⟩)
  rw [← hx]
  exact (h.congr (by subst hx; simp)).trans (.of_eq (by simp [onBoot]))

/-! ## The end of an event (R162, R166, R169) -/

theorem mem_flatten_keepWriters {stays : RecordWriter → Bool} {q : List (List RecordWriter)} {w : RecordWriter} :
    w ∈ (keepWriters stays q).flatten ↔ w ∈ q.flatten ∧ stays w = true := by
  simp only [keepWriters, List.mem_flatten, List.mem_filter, List.mem_map]
  constructor
  · rintro ⟨_, ⟨⟨g, hg, rfl⟩, _⟩, hw⟩
    exact ⟨⟨g, hg, (List.mem_filter.1 hw).1⟩, (List.mem_filter.1 hw).2⟩
  · rintro ⟨⟨g, hg, hw⟩, hs⟩
    have hm : w ∈ g.filter stays := List.mem_filter.2 ⟨hw, hs⟩
    refine ⟨_, ⟨⟨g, hg, rfl⟩, ?_⟩, hm⟩
    cases hq : g.filter stays with
    | nil => rw [hq] at hm; cases hm
    | cons a as => rfl

theorem flatten_keepWriters (stays : RecordWriter → Bool) (q : List (List RecordWriter)) :
    (keepWriters stays q).flatten = q.flatten.filter stays := by
  induction q with
  | nil => rfl
  | cons g gs ih =>
    simp only [keepWriters, List.map_cons, List.filter_cons, List.flatten_cons, List.filter_append] at ih ⊢
    cases hg : g.filter stays with
    | nil => simpa using ih
    | cons a as => simp [ih]

/-- R166: at the end of an event the writers whose write is still ready keep their order, and the others whose write is
ready join its end as one group: each stands in it once. -/
theorem refreshQueue_spec (n : NoticeUnit) (hn : n.readyQueue.flatten.Nodup) :
    (∃ fresh, refreshQueue n = keepWriters (writerReady n) n.readyQueue ++ fresh ∧ fresh.length ≤ 1) ∧
      (∀ g ∈ refreshQueue n, g ≠ []) ∧ (refreshQueue n).flatten.Nodup ∧
      ∀ w, w ∈ (refreshQueue n).flatten ↔ writerReady n w = true := by
  obtain ⟨kept, hk⟩ : ∃ kept, kept = keepWriters (writerReady n) n.readyQueue := ⟨_, rfl⟩
  obtain ⟨fresh, hf⟩ : ∃ fresh, fresh = allWriters.filter fun w => writerReady n w && !kept.flatten.contains w :=
    ⟨_, rfl⟩
  have e : refreshQueue n = if fresh.isEmpty then kept else kept ++ [fresh] := by rw [hf, hk]; rfl
  have hall : ∀ w, w ∈ allWriters := by intro w; cases w <;> decide
  have hne : ∀ g ∈ kept, g ≠ [] := by
    intro g hg
    rw [hk, keepWriters, List.mem_filter] at hg
    simpa using hg.2
  have hkn : kept.flatten.Nodup := by rw [hk, flatten_keepWriters]; exact hn.filter _
  have hfn : fresh.Nodup := by rw [hf]; exact (by decide : allWriters.Nodup).filter _
  have hkm : ∀ w, w ∈ kept.flatten → writerReady n w = true := fun w h => by
    rw [hk] at h; exact (mem_flatten_keepWriters.1 h).2
  have hfm : ∀ w, w ∈ fresh ↔ writerReady n w = true ∧ w ∉ kept.flatten := by
    intro w; rw [hf, List.mem_filter]; simp [hall w]
  rw [e]
  split
  · rename_i h
    rw [List.isEmpty_iff] at h
    refine ⟨⟨[], by simp [hk], by simp⟩, hne, hkn, fun w => ⟨hkm w, fun hw => ?_⟩⟩
    refine Classical.byContradiction fun hc => ?_
    have := (hfm w).2 ⟨hw, hc⟩
    rw [h] at this; cases this
  · rename_i h
    rw [List.isEmpty_iff] at h
    refine ⟨⟨[fresh], by rw [hk], by simp⟩, ?_, ?_, fun w => ?_⟩
    · intro g hg
      rcases List.mem_append.1 hg with hg | hg
      · exact hne g hg
      · simp only [List.mem_singleton] at hg; rw [hg]; exact h
    · simp only [List.flatten_append, List.flatten_cons, List.flatten_nil, List.append_nil]
      rw [List.nodup_append]
      refine ⟨hkn, hfn, ?_⟩
      rintro a ha b hb rfl
      exact ((hfm a).1 hb).2 ha
    · simp only [List.flatten_append, List.flatten_cons, List.flatten_nil, List.append_nil, List.mem_append, hfm]
      constructor
      · rintro (hw | hw)
        · exact hkm w hw
        · exact hw.1
      · intro hw
        by_cases hc : w ∈ kept.flatten
        · exact .inl hc
        · exact .inr ⟨hw, hc⟩

/-- R162, R166, R169: the end of an event sets the order of the ready writes right, whatever of it the event has left. -/
theorem settleOutputs_order (b : State) {t : State} (h : t.notice.readyQueue.flatten.Nodup) :
    ReadyRight (settleOutputs b t) ∧ ∃ fresh, fresh.length ≤ 1 ∧ (settleOutputs b t).notice.readyQueue =
      keepWriters (writerReady (settleOutputs b t).notice) t.notice.readyQueue ++ fresh := by
  obtain ⟨n, hq, hr, hs⟩ : ∃ n : NoticeUnit, n.readyQueue = t.notice.readyQueue ∧
      (∀ w, writerReady (settleOutputs b t).notice w = writerReady n w) ∧
      (settleOutputs b t).notice.readyQueue = refreshQueue n := by
    refine ⟨{ (if statusFields b = statusFields t then t.notice
      else { t.notice with statusWriter := writerChanged t.notice.statusWriter }) with
      notify := notifyLevel t.notice.set t.cmd.shadow }, ?_, fun w => ?_, ?_⟩
    · split <;> rfl
    · unfold settleOutputs; dsimp only; cases w <;> split <;> rfl
    · unfold settleOutputs; dsimp only; split <;> rfl
  obtain ⟨⟨fresh, f1, f2⟩, r1, r2, r3⟩ := refreshQueue_spec n (by rw [hq]; exact h)
  have hf : writerReady (settleOutputs b t).notice = writerReady n := funext hr
  refine ⟨⟨by rw [hs]; exact r1, by rw [hs]; exact r2, fun w => by rw [hs, hr]; exact r3 w⟩, fresh, f2, ?_⟩
  rw [hs, f1, hq, hf]

end Sys2Proof.Machine
end

