-- ==== Sys2Proof/Laws/Remap.lean ====
section
/-!
SUPPORT. What the crease stage and the remap computation do: the bytes of a corrected pixel, the runs of a pane.
-/
namespace Sys2Proof.Machine

/-! ## The crease stage (R71, R73) -/

/-- The bytes of a pixel word put together from its bytes. -/
theorem pixelByte_pixelOfBytes (b0 b1 b2 b3 : Byte) :
    pixelByte (pixelOfBytes b0 b1 b2 b3) 0 = b0 ∧ pixelByte (pixelOfBytes b0 b1 b2 b3) 1 = b1 ∧
      pixelByte (pixelOfBytes b0 b1 b2 b3) 2 = b2 ∧ pixelByte (pixelOfBytes b0 b1 b2 b3) 3 = b3 := by
  have key : ∀ i j, j < 8 → (pixelByte (pixelOfBytes b0 b1 b2 b3) i).getLsbD j =
      ((b3 ++ b2 ++ b1 ++ b0 : BitVec (8 + 8 + 8 + 8)).getLsbD (8 * i + j)) := by
    intro i j hj
    show (BitVec.extractLsb' (8 * i) 8 (b3 ++ b2 ++ b1 ++ b0 : BitVec (8 + 8 + 8 + 8))).getLsbD j = _
    rw [BitVec.getLsbD_extractLsb']; simp [hj]
  refine ⟨?_, ?_, ?_, ?_⟩ <;> apply BitVec.eq_of_getLsbD_eq <;> intro j hj <;> rw [key _ j hj] <;>
    simp only [BitVec.getLsbD_append]
  · rw [if_pos (by omega)]; simp
  · rw [if_neg (by omega), if_pos (by omega)]; congr 1; omega
  · rw [if_neg (by omega), if_neg (by omega), if_pos (by omega)]; congr 1; omega
  · rw [if_neg (by omega), if_neg (by omega), if_neg (by omega)]; congr 1; omega

/-- R71, R73: blue, green and red are replaced, alpha is carried. -/
theorem mapChannels_bytes (f : Byte → Byte) (p : Pixel) :
    pixelByte (mapChannels f p) 0 = f (pixelByte p 0) ∧ pixelByte (mapChannels f p) 1 = f (pixelByte p 1) ∧
      pixelByte (mapChannels f p) 2 = f (pixelByte p 2) ∧ pixelByte (mapChannels f p) 3 = pixelByte p 3 :=
  pixelByte_pixelOfBytes _ _ _ _

/-! ## The runs of a pane (R58) -/

/-- The pixels of a run in the order of the request, each with its request pixel. -/
def runPixels (run : Run) : List (Placed × Nat) := run.pixels.reverse.zipIdx run.first

/-- The pixels that take part for a pane, each with its request pixel, from request pixel `i` on. -/
def takingPart (ps : List (Option Placed)) (i : Nat) : List (Placed × Nat) :=
  (ps.zipIdx i).filterMap fun e => e.1.map fun q => (q, e.2)

/-- R58: a run holds 1 to 64 pixels, each following the one before it in the run's direction, which two pixels set. -/
structure RunRight (run : Run) : Prop where
  nonempty : run.pixels ≠ []
  few : run.pixels.length ≤ 64
  direction : run.descending = none ↔ run.pixels.length = 1
  follows : ∀ k a b, run.pixels.reverse[k]? = some a → run.pixels.reverse[k + 1]? = some b →
    stepDirection a.pos b.pos = run.descending

/-- A run of one pixel. -/
theorem RunRight.single (i : Nat) (q : Placed) : RunRight { first := i, descending := none, pixels := [q] } where
  nonempty := by simp
  few := by simp
  direction := by simp
  follows := by intro k a b _ h; simp at h

/-- R58: what joining a pixel to the open fragment does. -/
theorem extendRun_some {r r' : Run} {q : Placed} (h : extendRun r q = some r') :
    r'.first = r.first ∧ r'.pixels = q :: r.pixels ∧ (RunRight r → RunRight r') := by
  unfold extendRun at h
  split at h
  · cases h
  · rename_i last rest hp
    split at h
    · cases h
    · rename_i d hd
      split at h
      · rename_i hc
        cases h
        refine ⟨rfl, rfl, fun hr => ⟨by simp, by simp; omega, by simp [hp], ?_⟩⟩
        intro k a b ha hb
        have hl : r.pixels.reverse.length = r.pixels.length := by simp
        simp only [List.reverse_cons] at ha hb
        have hk : k + 1 < r.pixels.length + 1 := by
          have := (List.getElem?_eq_some_iff.1 hb).1
          simpa using this
        rw [List.getElem?_append_left (by omega)] at ha
        by_cases hlast : k + 1 = r.pixels.length
        · rw [List.getElem?_append_right (by omega), hl, hlast, Nat.sub_self] at hb
          simp only [List.getElem?_cons_zero, Option.some.injEq] at hb
          have : a = last := by
            rw [List.getElem?_reverse (by omega)] at ha
            have : r.pixels.length - 1 - k = 0 := by omega
            rw [this, hp] at ha
            simpa using ha.symm
          rw [this, ← hb]; exact hd
        · rw [List.getElem?_append_left (by omega)] at hb
          have hf := hr.follows k a b ha hb
          have hn : r.descending ≠ none := fun hn => by
            have := hr.direction.1 hn; omega
          rcases hc.2 with h0 | h0
          · exact absurd h0 hn
          · rw [hf, h0]
      · cases h

/-- R58: the runs of a pane hold the pixels that take part for it, each in one of them, in the order of the request. -/
theorem gatherRuns_pixels (ps : List (Option Placed)) : ∀ (i : Nat) (open? : Option Run),
    (∀ r ∈ open?, r.first + r.pixels.length = i) →
    (gatherRuns ps i open?).flatMap runPixels = (open?.toList.flatMap runPixels) ++ takingPart ps i := by
  induction ps with
  | nil => intro i o _; simp [gatherRuns, takingPart]
  | cons p ps ih =>
    intro i o ho
    cases p with
    | none =>
      rw [gatherRuns, List.flatMap_append, ih (i + 1) none (by simp)]
      simp [takingPart, List.zipIdx_cons]
    | some q =>
      have hq : takingPart (some q :: ps) i = (q, i) :: takingPart ps (i + 1) := by
        simp [takingPart, List.zipIdx_cons]
      have h1 : ∀ r ∈ Option.some ({ first := i, descending := none, pixels := [q] } : Run),
          r.first + r.pixels.length = i + 1 := by
        intro r hr; cases hr; rfl
      cases o with
      | none => rw [gatherRuns, ih (i + 1) _ h1, hq]; simp [runPixels]
      | some r =>
        rw [gatherRuns]
        have hr := ho r rfl
        split
        · rename_i r' hx
          obtain ⟨e1, e2, -⟩ := extendRun_some hx
          rw [ih (i + 1) _ (by intro x hx; cases hx; rw [e1, e2]; simp; omega), hq]
          simp [runPixels, e1, e2, List.zipIdx_append, hr]
        · rw [List.flatMap_cons, ih (i + 1) _ h1, hq]
          simp [runPixels]

/-- R58: every run gathered is right, and none begins before the open one or before the pixel at hand. -/
theorem gatherRuns_right (ps : List (Option Placed)) : ∀ (i : Nat) (open? : Option Run),
    (∀ r ∈ open?, RunRight r) → ∀ run ∈ gatherRuns ps i open?, RunRight run := by
  induction ps with
  | nil => intro i o ho run h; simp [gatherRuns] at h; exact ho run h
  | cons p ps ih =>
    intro i o ho run h
    have h1 : ∀ q, ∀ r ∈ Option.some ({ first := i, descending := none, pixels := [q] } : Run), RunRight r := by
      intro q r hr; cases hr; exact RunRight.single i q
    cases p with
    | none =>
      rw [gatherRuns] at h
      rcases List.mem_append.1 h with h | h
      · exact ho run (by simpa using h)
      · exact ih (i + 1) none (by simp) run h
    | some q =>
      cases o with
      | none => rw [gatherRuns] at h; exact ih (i + 1) _ (h1 q) run h
      | some r =>
        rw [gatherRuns] at h
        split at h
        · rename_i r' hx
          exact ih (i + 1) _ (by intro x hx'; cases hx'; exact (extendRun_some hx).2.2 (ho r rfl)) run h
        · rcases List.mem_cons.1 h with rfl | h
          · exact ho _ rfl
          · exact ih (i + 1) _ (h1 q) run h

/-- The run grown from the open one or from the pixel at hand begins the list; the others begin later. -/
theorem gatherRuns_first (ps : List (Option Placed)) : ∀ (i : Nat) (open? : Option Run),
    (∀ r ∈ open?, r.first + r.pixels.length = i ∧ r.pixels ≠ []) →
    (∀ run ∈ gatherRuns ps i open?, open? = none → i ≤ run.first) ∧
      ∀ r, open? = some r → ∃ r' rest, gatherRuns ps i open? = r' :: rest ∧ r'.first = r.first ∧
        r.pixels.getLast? = r'.pixels.getLast? ∧ ∀ run ∈ rest, i ≤ run.first := by
  induction ps with
  | nil =>
    intro i o ho
    refine ⟨fun run h hn => ?_, fun r hr => ?_⟩
    · subst hn; simp [gatherRuns] at h
    · subst hr; exact ⟨r, [], rfl, rfl, rfl, by simp⟩
  | cons p ps ih =>
    intro i o ho
    have h1 : ∀ q, ∀ r ∈ Option.some ({ first := i, descending := none, pixels := [q] } : Run),
        r.first + r.pixels.length = i + 1 ∧ r.pixels ≠ [] := by
      intro q r hr; cases hr; exact ⟨rfl, by simp⟩
    have fresh : ∀ q, ∀ run ∈ gatherRuns ps (i + 1) (some { first := i, descending := none, pixels := [q] }),
        i ≤ run.first := by
      intro q run hm
      obtain ⟨r', rest, e, e1, -, e3⟩ := (ih (i + 1) _ (h1 q)).2 _ rfl
      rw [e] at hm
      rcases List.mem_cons.1 hm with rfl | hm
      · exact Nat.le_of_eq e1.symm
      · have := e3 run hm; omega
    cases p with
    | none =>
      refine ⟨fun run h hn => ?_, fun r hr => ?_⟩
      · subst hn
        rw [gatherRuns] at h
        have := (ih (i + 1) none (by simp)).1 run (by simpa using h) rfl
        omega
      · subst hr
        refine ⟨r, gatherRuns ps (i + 1) none, by simp [gatherRuns], rfl, rfl, fun run hm => ?_⟩
        have := (ih (i + 1) none (by simp)).1 run hm rfl
        omega
    | some q =>
      refine ⟨fun run h hn => ?_, fun r hr => ?_⟩
      · subst hn; rw [gatherRuns] at h; exact fresh q run h
      · subst hr
        rw [gatherRuns]
        obtain ⟨hr1, hr2⟩ := ho r rfl
        split
        · rename_i r1 hx
          obtain ⟨e1, e2, -⟩ := extendRun_some hx
          obtain ⟨r', rest, g, g1, g2, g3⟩ := (ih (i + 1) (some r1) (by
            intro x hx'; cases hx'; rw [e1, e2]; exact ⟨by simp; omega, by simp⟩)).2 _ rfl
          refine ⟨r', rest, g, by rw [g1, e1], ?_, fun run hm => by have := g3 run hm; omega⟩
          rw [← g2, e2]
          cases hp : r.pixels with
          | nil => exact absurd hp hr2
          | cons a as => rw [List.getLast?_cons_cons]
        · exact ⟨r, _, rfl, rfl, rfl, fun run hm => fresh q run hm⟩

/-- R58: a run ends where the next request pixel does not take part or cannot join: of two runs with nothing between them,
the first cannot take the first pixel of the second. -/
theorem gatherRuns_longest (ps : List (Option Placed)) : ∀ (i : Nat) (open? : Option Run),
    (∀ r ∈ open?, r.first + r.pixels.length = i ∧ r.pixels ≠ []) →
    (gatherRuns ps i open?).Pairwise fun r r' => r.first + r.pixels.length ≤ r'.first ∧
      (r.first + r.pixels.length = r'.first → ∀ q, r'.pixels.getLast? = some q → extendRun r q = none) := by
  induction ps with
  | nil => intro i o _; cases o <;> simp [gatherRuns]
  | cons p ps ih =>
    intro i o ho
    have h1 : ∀ q, ∀ r ∈ Option.some ({ first := i, descending := none, pixels := [q] } : Run),
        r.first + r.pixels.length = i + 1 ∧ r.pixels ≠ [] := by
      intro q r hr; cases hr; exact ⟨rfl, by simp⟩
    cases p with
    | none =>
      rw [gatherRuns, List.pairwise_append]
      refine ⟨by cases o <;> simp, ih (i + 1) none (by simp), fun r hr r' hr' => ?_⟩
      have h2 := (ho r (by simpa using hr)).1
      have h3 := (gatherRuns_first ps (i + 1) none (by simp)).1 r' hr' rfl
      exact ⟨by omega, fun h => by omega⟩
    | some q =>
      cases o with
      | none => rw [gatherRuns]; exact ih (i + 1) _ (h1 q)
      | some r =>
        rw [gatherRuns]
        obtain ⟨hr1, hr2⟩ := ho r rfl
        split
        · rename_i r1 hx
          obtain ⟨e1, e2, -⟩ := extendRun_some hx
          exact ih (i + 1) _ (by intro x hx'; cases hx'; rw [e1, e2]; exact ⟨by simp; omega, by simp⟩)
        · rename_i hx
          refine List.pairwise_cons.2 ⟨fun r' hr' => ?_, ih (i + 1) _ (h1 q)⟩
          obtain ⟨r1, rest, e, e1, e2, e3⟩ := (gatherRuns_first ps (i + 1) _ (h1 q)).2 _ rfl
          rw [e] at hr'
          rcases List.mem_cons.1 hr' with rfl | hr'
          · refine ⟨by rw [e1]; exact Nat.le_of_eq hr1, fun _ x hx' => ?_⟩
            rw [← e2] at hx'
            simp only [List.getLast?_singleton, Option.some.injEq] at hx'
            rw [← hx']; exact hx
          · have := e3 r' hr'
            exact ⟨by omega, fun h => by omega⟩

end Sys2Proof.Machine
end

