-- ==== Sys2Proof/Laws/Tiles.lean ====
section
/-!
SUPPORT. The engine's map, queue and buffers in agreement: what promotions, takes, commits and the ends of operations make
of it.
-/
namespace Sys2Proof.Machine

/-- On the panel a tile is named by its place in the map. -/
theorem tileIndex_inj {t u : Tile} (ht : OnPanel t) (hu : OnPanel u) : tileIndex t = tileIndex u ↔ t = u := by
  refine ⟨fun h => ?_, fun h => h ▸ rfl⟩
  obtain ⟨tc, tr⟩ := t
  obtain ⟨uc, ur⟩ := u
  simp only [tileIndex, OnPanel] at h ht hu
  have h1 : tr = ur := by omega
  subst h1
  have h2 : tc = uc := by omega
  rw [h2]

/-- A map entry set on the panel is that of its tile alone. -/
theorem entryAt_setEntry_panel {m : List TileState} {t u : Tile} {e : TileState} (ht : OnPanel t) (hu : OnPanel u)
    (hb : entryAt m t ≠ .done) : entryAt (setEntry m t e) u = if u = t then e else entryAt m u := by
  have hl : tileIndex t < m.length := by
    refine Classical.byContradiction fun h => hb (entryAt_beyond (by omega))
  rw [entryAt_setEntry]
  by_cases h : u = t
  · simp [h, hl]
  · have : ¬ tileIndex t = tileIndex u := fun e => h ((tileIndex_inj ht hu).1 e).symm
    simp [h, this]

/-- The agreement reads the contexts and the engine alone. -/
theorem TilesRight.congr {s t : State} (h : TilesRight s) (hc : t.contexts = s.contexts)
    (he : t.engine = s.engine) : TilesRight t where
  touched := by rw [hc]; exact h.touched
  queued := by rw [he]; exact h.queued
  moving := by rw [he]; exact h.moving
  filling := by rw [he]; exact h.filling
  reading := by rw [he]; exact h.reading
  writing := by rw [he]; exact h.writing

/-- The agreement does not read the cursor, the hold queue or the last issuer, and needs of the queue that its tiles are
pending. -/
theorem TilesRight.queue {s t : State} (h : TilesRight s) (hc : t.contexts = s.contexts)
    (hm : t.engine.map = s.engine.map) (h0 : t.engine.tb0 = s.engine.tb0) (h1 : t.engine.tb1 = s.engine.tb1)
    (hq : ∀ u ∈ t.engine.promotion, OnPanel u ∧ isPending (entryAt s.engine.map u) = true) : TilesRight t := by
  have hb : ∀ b, bufferOf b t.engine = bufferOf b s.engine := by intro b; cases b <;> assumption
  refine ⟨?_, ?_, ?_, ?_, ?_, ?_⟩
  · rw [hc]; exact h.touched
  · rw [hm]; exact hq
  · intro u m b hu he; rw [hm] at he; rw [hb]; exact h.moving u m b hu he
  · intro u m b hu he; rw [hm] at he; rw [hb]; exact h.filling u m b hu he
  · intro b r hr; rw [hb] at hr; rw [hm]; exact h.reading b r hr
  · intro b r hr; rw [hb] at hr; rw [hm]; exact h.writing b r hr

/-- R145: promotions keep the agreement. -/
theorem promoteTiles_tiles {ts : List BankTile} {s : State} (h : TilesRight s) (ht : ∀ t ∈ ts, OnPanel t.tile) :
    TilesRight (promoteTiles ts s) := by
  obtain ⟨o, added, ha, hp, -⟩ := promoteTiles_spec ts s
  refine h.queue (by simp) (by rw [o]) (by rw [o]) (by rw [o]) fun u hu => ?_
  rw [ha, List.mem_append] at hu
  rcases hu with hu | hu
  · exact h.queued u hu
  · obtain ⟨p1, bt, p2, rfl⟩ := hp u hu
    exact ⟨ht bt p2, p1⟩

/-- R147: so does offering the held requests' tiles again. -/
theorem promoteHeld_tiles {s : State} (h : TilesRight s) : TilesRight (promoteHeld s) := by
  rw [promoteHeld_eq, ← promoteTiles_eq]
  refine promoteTiles_tiles h fun t ht => ?_
  obtain ⟨k, -, hk⟩ := List.mem_flatMap.1 ht
  cases hc : contextOf k s with
  | none => simp [hc] at hk
  | some c => exact h.touched c (List.mem_of_find?_eq_some hc) t (by simpa [hc] using hk)

/-- A buffer set is that buffer alone. -/
theorem bufferOf_setBuffer_eq (b d : BufferId) (x : TileBuffer) (e : Engine) :
    bufferOf d (setBuffer b x e) = if d = b then x else bufferOf d e := by cases b <;> cases d <;> rfl

/-- The entry `e` of a tile and the content `x` of buffer `b` speak of each other. -/
structure Agreeing (b : BufferId) (t : Tile) (e : TileState) (x : TileBuffer) : Prop where
  moving : ∀ m d, e = .moving m d → d = b ∧ ((∃ r, x = .reading r ∧ r.tile = t ∧ r.move = m) ∨
    ∃ w, x = .writing w ∧ w.tile = t ∧ w.op = .move)
  filling : ∀ k d, e = .filling k d → d = b ∧ ∃ w, x = .writing w ∧ w.tile = t ∧ w.op = .fill
  reading : ∀ r, x = .reading r → r.tile = t ∧ e = .moving r.move b
  writing : ∀ w, x = .writing w → w.tile = t ∧ (w.op = .move → ∃ m, e = .moving m b) ∧
    (w.op = .fill → ∃ k, e = .filling k b)

/-- The entry of one tile not queued and the buffer that alone may work on it, set together, keep the agreement. -/
theorem TilesRight.set {s : State} {b : BufferId} {t : Tile} {e : TileState} {x : TileBuffer} (h : TilesRight s)
    (ht : OnPanel t) (hne : entryAt s.engine.map t ≠ .done) (hq : t ∉ s.engine.promotion) (ha : Agreeing b t e x)
    (alone : ∀ d, d ≠ b → (∀ m, entryAt s.engine.map t ≠ .moving m d) ∧ ∀ k, entryAt s.engine.map t ≠ .filling k d)
    (free : ∀ u, OnPanel u → u ≠ t →
      (∀ m, entryAt s.engine.map u ≠ .moving m b) ∧ ∀ k, entryAt s.engine.map u ≠ .filling k b) :
    TilesRight (onEngine (fun g => setBuffer b x { g with map := setEntry g.map t e }) s) := by
  have hm : (setBuffer b x { s.engine with map := setEntry s.engine.map t e }).map = setEntry s.engine.map t e := by
    cases b <;> rfl
  have hp : (setBuffer b x { s.engine with map := setEntry s.engine.map t e }).promotion = s.engine.promotion := by
    cases b <;> rfl
  have hb : ∀ d, bufferOf d (setBuffer b x { s.engine with map := setEntry s.engine.map t e }) =
      if d = b then x else bufferOf d s.engine := fun d => by rw [bufferOf_setBuffer_eq]; cases d <;> rfl
  have en : ∀ u, OnPanel u → entryAt (setEntry s.engine.map t e) u = if u = t then e else entryAt s.engine.map u :=
    fun u hu => entryAt_setEntry_panel ht hu hne
  refine ⟨h.touched, ?_, ?_, ?_, ?_, ?_⟩ <;> simp only [onEngine, hm, hp, hb]
  · intro u hu
    obtain ⟨q1, q2⟩ := h.queued u hu
    refine ⟨q1, ?_⟩
    rwa [en u q1, if_neg fun (z : u = t) => hq (z ▸ hu)]
  · intro u m d hu he
    rw [en u hu] at he
    by_cases z : u = t
    · rw [if_pos z] at he
      obtain ⟨rfl, o⟩ := ha.moving m d he
      simpa [z] using o
    · rw [if_neg z] at he
      rw [if_neg fun (y : d = b) => (free u hu z).1 m (y ▸ he)]
      exact h.moving u m d hu he
  · intro u k d hu he
    rw [en u hu] at he
    by_cases z : u = t
    · rw [if_pos z] at he
      obtain ⟨rfl, o⟩ := ha.filling k d he
      simpa [z] using o
    · rw [if_neg z] at he
      rw [if_neg fun (y : d = b) => (free u hu z).2 k (y ▸ he)]
      exact h.filling u k d hu he
  · intro d r hr
    by_cases z : d = b
    · rw [if_pos z] at hr
      obtain ⟨o1, o2⟩ := ha.reading r hr
      rw [o1, en t ht, if_pos rfl, z]
      exact ⟨ht, o2⟩
    · rw [if_neg z] at hr
      obtain ⟨o1, o2⟩ := h.reading d r hr
      refine ⟨o1, ?_⟩
      rwa [en _ o1, if_neg fun (y : r.tile = t) => (alone d z).1 r.move (y ▸ o2)]
  · intro d w hw
    by_cases z : d = b
    · rw [if_pos z] at hw
      obtain ⟨o1, o2⟩ := ha.writing w hw
      rw [o1, en t ht, if_pos rfl, z]
      exact ⟨ht, o2⟩
    · rw [if_neg z] at hw
      obtain ⟨o1, o2, o3⟩ := h.writing d w hw
      have y : w.tile ≠ t := by
        intro y
        cases hop : w.op with
        | move => obtain ⟨m, he⟩ := o2 hop; exact (alone d z).1 m (y ▸ he)
        | fill => obtain ⟨k, he⟩ := o3 hop; exact (alone d z).2 k (y ▸ he)
      rw [en _ o1, if_neg y]
      exact ⟨o1, o2, o3⟩

/-- No entry names an EMPTY buffer. -/
theorem TilesRight.empty {s : State} {b : BufferId} (h : TilesRight s) (hb : bufferOf b s.engine = .empty) (u : Tile)
    (hu : OnPanel u) : (∀ m, entryAt s.engine.map u ≠ .moving m b) ∧ ∀ k, entryAt s.engine.map u ≠ .filling k b := by
  refine ⟨fun m he => ?_, fun k he => ?_⟩
  · rcases h.moving u m b hu he with ⟨r, hr, -⟩ | ⟨w, hw, -⟩
    · rw [hb] at hr; cases hr
    · rw [hb] at hw; cases hw
  · obtain ⟨w, hw, -⟩ := h.filling u k b hu he
    rw [hb] at hw; cases hw

/-- R131: a tile of the panel, not queued any more, taken into an EMPTY buffer. -/
theorem startTile_tiles {b : BufferId} {t : Tile} {s : State} (h : TilesRight s) (ht : OnPanel t)
    (hb : bufferOf b s.engine = .empty) (hq : t ∉ s.engine.promotion) : TilesRight (startTile b t s) := by
  unfold startTile
  split
  · rename_i m he
    refine h.set ht (by simp [he]) hq ⟨?_, ?_, ?_, ?_⟩ (by simp [he]) fun u hu _ => h.empty hb u hu
    · intro n d hn; cases hn; exact ⟨rfl, .inl ⟨_, rfl, rfl, rfl⟩⟩
    · intro k d hk; cases hk
    · intro r hr; cases hr; exact ⟨rfl, rfl⟩
    · intro w hw; cases hw
  · rename_i k he
    refine h.set ht (by simp [he]) hq ⟨?_, ?_, ?_, ?_⟩ (by simp [he]) fun u hu _ => h.empty hb u hu
    · intro n d hn; cases hn
    · intro k d hk; cases hk; exact ⟨rfl, _, rfl, rfl, rfl⟩
    · intro r hr; cases hr
    · intro w hw; cases hw; exact ⟨rfl, nofun, fun _ => ⟨_, rfl⟩⟩
  · exact h

/-- The first offer is a tile of the list it was sought in. -/
theorem firstOffer_mem {p : Tile → Bool} {ts : List Tile} {i n : Nat} {t : Tile} (h : firstOffer p ts i = some (n, t)) :
    t ∈ ts ∧ p t = true := by
  induction ts generalizing i with
  | nil => cases h
  | cons u us ih =>
    simp only [firstOffer] at h
    split at h
    · cases h; exact ⟨List.mem_cons_self, ‹_›⟩
    · exact ⟨List.mem_cons_of_mem _ (ih h).1, (ih h).2⟩

/-- What the promotion queue offers stands in it. -/
theorem promotionOffer_mem {s : State} {t : Tile} (h : promotionOffer s = some t) : t ∈ s.engine.promotion := by
  unfold promotionOffer at h
  split at h
  · exact List.mem_of_mem_head? h
  · exact List.mem_of_find?_eq_some h
  · cases h

/-- R130, R131: a take keeps the agreement, the queue holding no tile twice and the plan walking tiles of the panel. -/
theorem takeTile_tiles {b : BufferId} {s : State} (h : TilesRight s) (hn : s.engine.promotion.Nodup)
    (hp : ∀ t ∈ planTiles (targetRecord s), OnPanel t) : TilesRight (takeTile b s) := by
  unfold takeTile
  split
  · rename_i hb
    split
    · rename_i t ho
      have hm := promotionOffer_mem ho
      refine promoteHeld_tiles (startTile_tiles (h.queue rfl rfl rfl rfl fun u hu => h.queued u (List.mem_of_mem_erase hu))
        (h.queued t hm).1 hb ?_)
      exact fun z => (hn.mem_erase_iff.1 z).1 rfl
    · split
      · exact h
      · rename_i wanted _
        split
        · rename_i i t hc
          obtain ⟨c1, c2⟩ := firstOffer_mem hc
          simp only [Bool.and_eq_true, Bool.not_eq_true', List.contains_eq_mem, decide_eq_false_iff_not] at c2
          exact startTile_tiles (h.queue rfl rfl rfl rfl h.queued) (hp t (List.mem_of_mem_drop c1)) hb c2.2
        · exact h.queue rfl rfl rfl rfl h.queued
  · exact h

/-- R127, R43: the plan of a record with panes within the panel walks tiles of the panel. -/
theorem planTiles_panel {rc : RecordCopy} (h : PanesRight rc.panes) : ∀ t ∈ planTiles rc, OnPanel t := by
  intro t ht
  simp only [planTiles, panePlan, rasterTiles, List.mem_append, List.mem_flatMap, List.mem_filter, List.mem_map,
    List.mem_range] at ht
  rcases ht with ⟨p, hp, j, hj, i, hi, rfl⟩ | ⟨⟨r, hr, c, hc, rfl⟩, -⟩
  · obtain ⟨-, -, b1, b2⟩ := h.1 p hp
    unfold placeTile OnPanel
    cases ho : p.orient <;> simp only [paneWidth, paneHeight, ho] at b1 b2 <;> simp only <;> split <;> omega
  · exact ⟨hc, hr⟩

/-- R126: a commit leaves no entry finished or in operation. -/
theorem planEntry_pending (rc : RecordCopy) (old : Option RecordCopy) (t : Tile) :
    isPending (planEntry rc old t) = true := by
  unfold planEntry
  dsimp only
  repeat' split
  all_goals rfl

/-- R131: so do the takes of both buffers. -/
theorem takeTiles_tiles {s : State} (h : TilesRight s) (hn : s.engine.promotion.Nodup)
    (hp : ∀ t ∈ planTiles (targetRecord s), OnPanel t) : TilesRight (takeTiles s) :=
  takeTile_tiles (takeTile_tiles h hn hp) ((takeTile_spec .tb0 s).2.2.2.2.2.2 hn) (by simpa [targetRecord] using hp)

end Sys2Proof.Machine
end

