-- ==== Sys2Proof/Tests/Slice0.lean ====
section
/-!
SUPPORT. Tests: the ill-formed terms that the checks refuse, the spec's worked examples, a step of every command, and for
every statement with hypotheses a named witness that meets them.
-/
namespace Sys2Proof.Tests

set_option Elab.async false

open Sys2Proof Sys2Proof.Machine

/-! ## Bench: requests, the example table of 02 section 2.6, and states around it -/

/-- A READ of `n` pixels. -/
def readAt (tag : Tag) (a : BitVec 32) (n : Nat) : Request := { tag := tag, address := a, body := .read n }

/-- A WRITE of unmasked words. -/
def writeAt (tag : Tag) (a : BitVec 32) (ws : List Pixel) : Request :=
  { tag := tag, address := a, body := .write (ws.map fun w => { word := w, mask := .write }) }

/-- Bytes from their numbers. -/
def asBytes (ns : List Nat) : List Byte := ns.map (BitVec.ofNat 8)

/-- Header of the example table (02 section 2.6) laid out by 11 R176; bytes 4 and 5 are the checksum of 2.6.2. -/
def exampleHeader : List Byte := asBytes
  ([1, 0, 248, 0, 89, 185, 6, 2, 10, 60, 208, 7, 5, 0, 255, 3, 141, 32, 0, 0, 0, 0, 0, 255] ++
   [168, 12, 96, 9, 168, 12, 0, 0, 0, 0, 0, 255] ++ [56, 4, 96, 9, 56, 4, 0, 0, 16, 16, 16, 255] ++
   [0, 0, 0, 0, 0, 0, 0, 0, 0, 0, 0, 0] ++ [96, 9, 56, 4, 96, 9, 0, 0, 0, 0, 0, 255] ++
   [96, 8, 30, 0, 64, 4, 12, 0] ++ List.replicate 16 0)

/-- Records 0 to 5 of the example table. -/
def exampleRecords : List Byte := asBytes
  ([0, 1, 0, 0, 100, 0, 0, 0, 208, 2, 0, 0, 208, 2, 0, 0, 1, 0, 0, 0, 27, 60, 0, 0] ++
   [1, 1, 5, 0, 150, 0, 64, 1, 144, 1, 64, 1, 144, 1, 0, 0, 0, 0, 0, 0, 81, 60, 0, 0] ++
   [2, 1, 0, 0, 44, 1, 0, 0, 60, 0, 148, 2, 208, 2, 0, 0, 0, 0, 0, 0, 27, 60, 0, 0] ++
   [3, 1, 1, 0, 150, 0, 64, 1, 144, 1, 88, 2, 208, 2, 0, 0, 0, 0, 0, 0, 54, 60, 0, 0] ++
   [4, 1, 0, 0, 144, 1, 88, 2, 208, 2, 180, 0, 44, 1, 0, 0, 3, 1, 0, 0, 60, 27, 54, 0] ++
   [5, 2, 0, 0, 144, 1, 0, 0, 60, 0, 180, 0, 44, 1, 0, 0, 3, 1, 0, 0, 60, 27, 54, 0, 3, 3, 0, 0, 60, 27, 0, 0])

/-- The example image, 248 bytes. -/
def exampleImage : List Byte := exampleHeader ++ exampleRecords

/-- An image with one byte changed and its checksum word made right again (2.6.2). -/
def edited (img : List Byte) (i : Nat) (v : Nat) : List Byte :=
  let bare := ((img.set i (BitVec.ofNat 8 v)).set 4 0).set 5 0
  let c := 0xFFFF - imageChecksum bare
  (bare.set 4 (BitVec.ofNat 8 (c % 256))).set 5 (BitVec.ofNat 8 (c / 256))

/-- The example table. -/
def exampleTable : Table := tableOfImage exampleImage

/-- The example table with acknowledge mode WRITE (header flag bit 0). -/
def writeModeTable : Table := { exampleTable with ackMode := .write }

/-- The copy of layout `n` of a table. -/
def layoutOf (t : Table) (n : Nat) : RecordCopy := copyRecord t ((tableRecord t n).getD { number := n, sel1 := none, sel2 := none, settleMs := 0, win1 := { lo := 0, hi := 0 }, win2 := { lo := 0, hi := 0 }, panes := [] })

/-- A hinge that is PRESENT at an angle. -/
def presentAt (a : Nat) : Hinge := { state := .present, validRun := 4, missRun := 0, history := [a, a, a, a], filtered := a }

/-- The part in LOADING with nothing in progress on either serial link. -/
def quiet : State := { State.reset with
  monitor := { State.reset.monitor with poll := none }
  boot := { state := .finished, bytes := [], length := none, spi := none } }

/-- STEADY at generation 6 with layout `n` of the table active in a front bank, both hinges PRESENT. -/
def steady (t : Table) (n : Nat) (b : Bank) : State := { quiet with
  monitor := { quiet.monitor with h1 := presentAt 362, h2 := presentAt 400, roundDue := 5000 }
  ctrl := { State.reset.ctrl with
    state := .steady, generation := 6, active := some (layoutOf t n), frontBank := b, panelEnable := true }
  cmd := { lastSeq := 0x20, load := none, shadow := some t, source := .memory } }

/-- A transition in RELOCATING from layout `n` in bank 0 to layout `m` in bank 1, its map that of the plan. -/
def moving (t : Table) (n m : Nat) : State :=
  let s := steady t n .bank0
  { s with
    ctrl := { s.ctrl with
      state := .relocating, generation := 7, target := some (layoutOf t m), old := some (layoutOf t n) }
    engine := { s.engine with map := planMap (layoutOf t m) (some (layoutOf t n)) } }

/-- The next state, if there is one. -/
def after (o : Host.Outcome State Fault Refusal) : Option State :=
  match o with
  | .next s => some s
  | .fault _ => none
  | .refused _ => none

/-- Why a command was refused. -/
def refusal (o : Host.Outcome State Fault Refusal) : Option Refusal :=
  match o with
  | .next _ => none
  | .fault _ => none
  | .refused r => some r

/-! ## Ill-formed commands, each refused by its check -/

/-- R1: a count of 65 cannot be presented. -/
theorem test_count_65_is_ill_formed : ¬ (Instr.requestPresent .up0 (readAt 0 0 65)).WellFormed := by decide
/-- R1: a count of 0 cannot be presented. -/
theorem test_count_0_is_ill_formed : ¬ (Instr.requestPresent .up0 (readAt 0 0 0)).WellFormed := by decide
/-- A read is no system window write. -/
theorem test_read_is_no_system_write : ¬ (Instr.systemWindowWrite .up0 (readAt 0 0x04000400#32 1)).WellFormed := by decide
/-- A write of the command word is not a row of its own without behaviour. -/
theorem test_command_word_is_no_plain_write :
    ¬ (Instr.systemWindowWrite .up0 (writeAt 0 0x04000000#32 [0])).WellFormed := by decide
/-- A write beside the table area is no table area write. -/
theorem test_write_beside_table_area : ¬ (Instr.tableAreaWrite .up0 (writeAt 0 0x04000FFC#32 [0])).WellFormed := by decide
/-- A masked pixel writes nothing, so it marks no notice record write. -/
theorem test_masked_notice_word : ¬ (Instr.noticeRecordWrite .up0
    { tag := 0, address := 0x04000100#32, body := .write [{ word := 1, mask := .skip }] }).WellFormed := by decide
/-- R154: code 0x04 is REPORT, so it is no unknown command. -/
theorem test_report_is_no_bad_command : ¬ (Instr.badCommand .up0 0 1 0x04 0).WellFormed := by decide
/-- R173: a head read has 16 bytes. -/
theorem test_short_head_read : ¬ (Instr.bootHeadReadEnd (List.replicate 15 0)).WellFormed := by decide

/-! ## Worked examples: windows (01 section 1.2.1) -/

theorem test_raw_window_to_its_end : admittedWindow (readAt 0 0x03FFFF00#32 64) = some .raw := by decide
theorem test_raw_into_system : admittedWindow (readAt 0 0x03FFFF80#32 64) = none := by decide
theorem test_last_system_word : admittedWindow (readAt 0 0x0400FFFC#32 1) = some .system := by decide
theorem test_no_window_above_system : admittedWindow (readAt 0 0x04010000#32 1) = none := by decide
theorem test_misaligned_surface : admittedWindow (readAt 0 0x10000002#32 1) = none := by decide
theorem test_aperture_0_to_its_end : admittedWindow (readAt 0 0x13FFFFF0#32 4) = some (.surface 0) := by decide
theorem test_aperture_0_into_1 : admittedWindow (readAt 0 0x13FFFFF0#32 8) = none := by decide
theorem test_no_window_above_apertures : admittedWindow (readAt 0 0x20000000#32 1) = none := by decide

/-! ## Worked examples: crease codes and channels (04 sections 4.2.1 and 4.8) -/

theorem test_profile_p0 : (List.range 30).map (gainAt 96 8) =
    [96, 90, 84, 78, 72, 66, 60, 54, 48, 45, 42, 39, 36, 33, 30, 27, 24, 22, 21, 19, 18, 16, 15, 13, 12, 11, 10, 9, 9, 8] := by
  decide
theorem test_profile_p1 : (List.range 12).map (gainAt 64 4) = [64, 56, 48, 40, 32, 28, 24, 20, 16, 14, 12, 10] := by decide
theorem test_codes_of_columns : [1049, 1050, 1079, 1080, 1085, 1093, 1109, 1110].map (gainCode (layoutOf exampleTable 1)) =
    [0, 8, 96, 96, 66, 33, 8, 0] := by decide +kernel
theorem test_pixel_beside_h1 : creaseWrite 66 0x80C86432#32 = 0x80FC7E3F#32 := by decide
theorem test_pixel_moved_out_of_band : creaseRescale 66 0 0x80FC7E3F#32 = 0x80C86432#32 := by decide
theorem test_lift_clamps : liftChannel 96 220 = 255 ∧ rescaleChannel 96 0 255 = 185 := by decide
theorem test_rescale_between_codes : rescaleChannel 66 33 252 = 226 ∧ rescaleChannel 33 0 226 = 200 := by decide

/-! ## Worked examples: placement and fragments (03 sections 3.5 and 3.10) -/

theorem test_eight_placements :
    [Orient.q0, .q1, .q2, .q3].map (fun o => (turnPixel o 80 40 10 3, turnPixel o 80 40 69 3)) =
      [((10, 3), (69, 3)), ((36, 10), (36, 69)), ((69, 36), (10, 36)), ((3, 69), (3, 10))] := by decide

/-- The context of a request of surface `k` under layout `n` of the example table. -/
def contextUnder (n k : Nat) (b : Bank) (r : Request) : Context :=
  makeContext .up1 6 (layoutOf exampleTable n) b (snapshotOf (some exampleTable) k) k r

theorem test_standing_posture_pixel :
    (contextUnder 4 3 .bank1 (writeAt 0 0x1C00BD10#32 [7])).fragments.map (fun f => (f.address, f.count, f.data)) =
      [(0x0213F908, 1, [7])] := by decide +kernel
theorem test_tent_write_fragments :
    (contextUnder 5 3 .bank1 (writeAt 0 0x1C00BD10#32 [1, 2, 3])).fragments.map (fun f => (f.pane, f.address, f.data)) =
      [(0, 0x0213F908, [1]), (1, 0x03C6A2F4, [1]), (0, 0x02142BA8, [2]), (1, 0x03C67054, [2]), (0, 0x02145E48, [3]),
       (1, 0x03C63DB4, [3])] := by decide +kernel
theorem test_tent_read_uses_first_pane :
    let c := contextUnder 5 3 .bank1 (readAt 0 0x1C00BD10#32 3)
    c.fragments.map (·.address) = [0x0213F908, 0x02142BA8, 0x02145E48] ∧
      c.pixelMap = [some (0, 0), some (1, 0), some (2, 0)] ∧
      c.tiles = [{ bank := .bank1, tile := { col := 80, row := 2 } }] := by decide +kernel

/-- 3.10.1: 64 words from column 2136 of row 41. -/
def edgeWrite : Request := writeAt 3 0x10083D00#32 (List.replicate 64 0xFF808080#32)

theorem test_write_off_the_edge :
    let c := contextUnder 3 0 .bank0 edgeWrite
    c.fragments.map (fun f => (f.address, f.count)) = [(0x00083D00, 24)] ∧
      c.tiles = [{ bank := .bank0, tile := { col := 53, row := 1 } }] ∧
      droppedPixels 0 (snapshotOf (some exampleTable) 0) (layoutOf exampleTable 3) edgeWrite = 40 := by decide +kernel

/-- 3.10.3: surface 1 turned upside down on S3. -/
def upsideDown : RecordCopy :=
  { number := 6, crease1 := none, crease2 := none
    panes := [{ surface := 1, orient := .q2, mirror := false, u0 := 0, v0 := 0, w := 27, h := 60, x0 := 54, y0 := 0 }] }

theorem test_descending_run :
    let c := makeContext .up0 6 upsideDown .bank0 (snapshotOf (some exampleTable) 1) 1
      (writeAt 0 0x14000000#32 ((List.range 64).map (BitVec.ofNat 32)))
    c.fragments.map (fun f => (f.address, f.count, f.data.head?)) = [(0x01DA9B00, 64, some 63)] ∧
      c.tiles.map (fun t => (t.tile.col, t.tile.row)) = [(80, 59), (79, 59)] := by decide +kernel
theorem test_run_across_a_row_end :
    (makeContext .up0 6 upsideDown .bank0 (snapshotOf (some exampleTable) 1) 1 (readAt 0 0x140010C0#32 16)).fragments.map
      (fun f => (f.address, f.count)) = [(0x01DA8B20, 8), (0x01DA6940, 8)] := by decide +kernel

/-! ## Worked examples: the table and its validation (02 section 2.6, 11 sections 11.2 and 11.3) -/

theorem test_example_image_is_valid : exampleImage.length = 248 ∧ validate exampleImage = none ∧
    recordPositions exampleImage = [96, 120, 144, 168, 192, 216] := by decide +kernel
theorem test_checksum_fold : [0x0001, 0x00F8, 0x8001, 0x8000].foldl endAroundAdd 0 = 0x00FB := by decide
theorem test_pane_beyond_panel : validate (edited exampleImage 246 60) =
    some { kind := 9, check := 5, first := some 5, second := some 1 } := by decide +kernel
theorem test_panes_overlap : validate (edited exampleImage 246 40) =
    some { kind := 10, check := 1, first := some 5, second := some 1 } := by decide +kernel
theorem test_packed_details :
    packDetail { kind := 2, check := 1, first := none, second := none } = 0xFF92#16 ∧
      packDetail { kind := 9, check := 5, first := some 5, second := some 1 } = 0x94D9#16 ∧
      packDetail unreadableDetail = 0xFF80#16 := by decide
theorem test_remainder_read_of_248 : remainderReads 248 = [(0x04001010, 58)] := by decide
theorem test_first_status_record :
    statusWords (statusFields State.reset) = [0x00000000#32, 0xFFFFFFFF#32, 0x01680168#32, 0x00000000#32] := by decide

/-! ## Worked examples: plans (07 section 7.2.1) -/

theorem test_entries_from_2_to_1 :
    [(26, 5), (27, 5)].map (fun t => planEntry (layoutOf exampleTable 1) (some (layoutOf exampleTable 2)) { col := t.1, row := t.2 }) =
      [.pendingMove { source := { col := 26, row := 5 }, oldPane := 0, targetPane := 0 }, .pendingFill (.surface 0 0)] := by
  decide +kernel
theorem test_entries_from_4_to_5 :
    [(80, 0), (0, 59), (27, 0)].map (fun t => planEntry (layoutOf exampleTable 5) (some (layoutOf exampleTable 4)) { col := t.1, row := t.2 }) =
      [.pendingMove { source := { col := 80, row := 0 }, oldPane := 0, targetPane := 0 },
       .pendingMove { source := { col := 80, row := 0 }, oldPane := 0, targetPane := 1 }, .pendingFill .dark] := by
  decide +kernel
theorem test_entry_of_the_boot_plan :
    planEntry (layoutOf exampleTable 0) none { col := 26, row := 59 } = .pendingFill (.surface 1 0) := by decide +kernel
theorem test_plan_order_of_layout_5 :
    let plan := planTiles (layoutOf exampleTable 5)
    [0, 59, 60, 1620, 1621, 3240].map (fun i => plan[i]?.map fun t => (t.col, t.row)) =
      [some (80, 0), some (80, 59), some (79, 0), some (0, 59), some (0, 58), some (27, 0)] := by decide +kernel

/-! ## A step of every command -/

/-- Layout 1 of the example table active in bank 1, as in 04 section 4.8.1. -/
def whole : State := steady exampleTable 1 .bank1

/-- Layout 3 active in bank 0, as in 03 section 3.10.1. -/
def folded : State := steady exampleTable 3 .bank0

/-- The part with one request in flight on DN. -/
def awaiting (o : Owner) (q : Requester) (a : Nat) (b : Body) (s : State) : State :=
  { s with dn := { s.dn with inFlight := [{ request := { requester := q, address := a, body := b }, owner := o, stale := false }] } }

/-- A write body of `n` words. -/
def words (n : Nat) : Body := .write (List.replicate n { word := 0, mask := .write })

/-- RESET_N asserted over a state. -/
def asserted (s : State) : State := { s with pins := { s.pins with resetAsserted := true } }

/-- A tile and the move that 07 section 7.2.1 gives it from layout 4 to layout 5. -/
def tentMove : MoveSpec := { source := { col := 80, row := 0 }, oldPane := 0, targetPane := 1 }

/-- A buffer reading tile (0, 59) with `n` rows answered and all issued. -/
def readingTent (n : Nat) (abandon : Bool) : Reading :=
  { tile := { col := 0, row := 59 }, move := tentMove, bank := .bank0, issued := 40, answered := n
    rows := List.replicate n (List.replicate 40 0xFF102030#32), abandon := abandon }

/-- A buffer writing tile (0, 59) with `n` writes answered and all issued. -/
def writingTent (op : TileOp) (n : Nat) (failure : Bool) : Writing :=
  { tile := { col := 0, row := 59 }, bank := .bank1, op := op
    rows := List.replicate 40 (List.replicate 40 0), issued := 40, answered := n, failure := failure }

/-- The transition from layout 4 to layout 5 with what buffer TB0 holds and the oldest row request in flight. -/
def tent (b : TileBuffer) (body : Body) : State :=
  let s := moving exampleTable 4 5
  awaiting (.row .tb0) .relocation 0 body { s with engine := { s.engine with tb0 := b, tb1 := .discarding 3 } }

/-- A load of the example image. -/
def loadOf (head disturbed : Bool) (bytes : List Byte) (left : List (Nat × Nat)) : TableLoad :=
  { seq := 0x21, disturbed := disturbed, readFailed := false, abandoned := false, awaitingHead := head, bytes := bytes
    length := 248, toIssue := left, inFlight := 1 }

/-- STEADY on the built-in table with a load running and one of its reads in flight (08 section 8.7). -/
def loading (l : TableLoad) (n : Nat) : State :=
  let s := steady builtInTable 0 .bank1
  awaiting .loader .loader 0x04001000 (.read n)
    { s with cmd := { s.cmd with load := some l }, ctrl := { s.ctrl with loadHold := true } }

/-- The pixel words of an image. -/
def pixelsOf (img : List Byte) : List Pixel :=
  (List.range (img.length / 4)).map fun i => pixelAt img (4 * i)

/-- The part with a field of the notice unit changed. -/
def noticing (f : NoticeUnit → NoticeUnit) (s : State) : State := { s with notice := f s.notice }

/-- R171: asserting RESET_N releases the sensor lines and ends the poll. -/
theorem test_reset_assert : (after (exec .resetNAssert State.reset)).map (fun t =>
    (t.pins.resetAsserted, t.pins.sensClk, t.pins.spiCsN, t.monitor.poll)) =
      some (true, .released, .driven true, none) := by decide +kernel
/-- R18, R171: the release starts the boot loader and marks nothing active. -/
theorem test_reset_release : (after (exec .resetNRelease (asserted whole))).map (fun t =>
    (t.boot.state, t.ctrl.state, t.ctrl.panelEnable, t.cmd.source)) =
      some (.readHead, .loading, false, .none) := by decide +kernel
/-- 03 section 3.10.1: 40 uncovered pixels are counted and the write joins the path list. -/
theorem test_present_surface_write : (after (exec (.requestPresent .up0 edgeWrite) folded)).map (fun t =>
    (t.notice.counters.clipped.value, t.up0.path, t.up0.tags)) = some (40, [.surface 3], [3]) := by decide +kernel
/-- R9: a write of a word without behaviour is forwarded. -/
theorem test_system_window_write : (after (exec (.systemWindowWrite .up1 (writeAt 5 0x04000400#32 [9])) whole)).map
    (fun t => (t.up1.path, t.notice.set)) = some ([.forward (writeAt 5 0x04000400#32 [9])], 0) := by decide +kernel
/-- 08 section 8.7 event 3: a write at 0x0400_1100 disturbs the load. -/
theorem test_table_area_write : (after (exec (.tableAreaWrite .up1 (writeAt 5 0x04001100#32 [9]))
    (loading (loadOf false false [] []) 58))).map (fun t => t.cmd.load.map (·.disturbed)) = some (some true) := by
  decide +kernel
/-- R165: in WRITE mode a written bit removes its kind and no other. -/
theorem test_notice_write : (after (exec (.noticeRecordWrite .up0 (writeAt 1 0x04000100#32 [0xFFFFFC01#32]))
    (noticing (fun n => { n with set := 3 }) (steady writeModeTable 1 .bank1)))).map (fun t => t.notice.set) =
      some 2 := by decide +kernel
/-- A ready response to a read of the notice record. -/
def noticeAnswer (w : Pixel) : ReadyResponse :=
  { response := { tag := 7, result := .okay, data := [w] }, origin := .forwarded (readAt 7 0x04000100#32 1) }

/-- 09 section 9.7 before event 5: both kinds pending, the read's answer holds TRANSITION_BEGUN alone. -/
def readBack (t : Table) : State :=
  let s := noticing (fun n => { n with set := 3, noticeWriter := .inFlight }) (steady t 1 .bank1)
  { s with up0 := { s.up0 with tags := [7], ready := [[noticeAnswer 1]] } }

/-- 09 section 9.7 event 5. -/
theorem test_notice_read : (after (exec (.noticeRecordRead .up0 7) (readBack exampleTable))).map (fun t =>
    (t.notice.set, t.notice.noticeWriter, t.notice.notify, t.up0.tags)) = some (2, .inFlightDue, true, []) := by
  decide +kernel
/-- R6, R8: a request that waited for its tag is tested as if presented then. -/
theorem test_wait_end : (after (exec (.intakeWaitEnd .up0)
    { whole with up0 := { whole.up0 with place := .waitTag (readAt 4 0x00000000#32 1) false } })).map (fun t =>
      (t.up0.place, t.up0.path)) = some (.empty, [.forward (readAt 4 0x00000000#32 1)]) := by decide +kernel
/-- R13: after the notice unit's place the cyclic order starts again at UP0's path. -/
theorem test_grant : (after (exec (.arbiterGrant .notice)
    { whole with up0 := { whole.up0 with path := [.forward (readAt 4 0x00000040#32 2)] }
                 up1 := { whole.up1 with path := [.forward (readAt 5 0x00000080#32 2)] } })).map (fun t =>
      (t.dn.inFlight.map fun f => (f.request.requester, f.request.address), t.up0.path, t.up1.path.length)) =
      some ([(.path .up0, 0x40)], [], 1) := by decide +kernel

/-- Fragment states of a context, first to last, an OK fragment with the word returned. -/
def answeredAs (c : Context) (xs : List (FragmentState × List Pixel)) : Context :=
  { c with fragments := (c.fragments.zip xs).map fun e => { e.1 with state := e.2.1, got := e.2.2 } }

/-- The tent read of 03 section 3.10.2 with its fragments in these states, the oldest in flight being `i`. -/
def tentRead (i : Nat) (xs : List (FragmentState × List Pixel)) : State :=
  let s := steady exampleTable 5 .bank1
  awaiting (.fragment .up1 2 i) (.path .up1) 0x02142BA8 (.read 1)
    { s with
      contexts := [answeredAs (contextUnder 5 3 .bank1 (readAt 2 0x1C00BD10#32 3)) xs]
      up1 := { s.up1 with tags := [2] } }

/-- G3 in flight alone, G2 failed. -/
def tentReadLast : State := tentRead 2 [(.ok, [0xA1]), (.failed, []), (.inFlight, [])]

/-- 03 section 3.10.2: with G2 failed, the response is MEMERR and its pixel 0. -/
theorem test_fragment_answer : (after (exec (.fragmentAnswer (.ok [0xA3])) tentReadLast)).map (fun t => t.up1.ready) =
    some [[{ response := { tag := 2, result := .memErr, data := [0xA1, 0, 0xA3] }, origin := .surface }]] := by
  decide +kernel
/-- R9: a memory error on a forwarded read returns zeros, and is not counted. -/
theorem test_forwarded_answer : (after (exec (.forwardedAnswer .memoryError)
    (awaiting (.forward .up0 (readAt 1 0#32 2)) (.path .up0) 0 (.read 2) whole))).map (fun t =>
      (t.up0.ready.flatten.map (·.response), t.notice.counters.memoryErrors.value)) =
      some ([{ tag := 1, result := .memErr, data := [0, 0] }], 0) := by decide +kernel

/-- A write of surface 0 that is the last old write of a drain. -/
def lastOldWrite : State :=
  let s := moving exampleTable 4 5
  { s with
    ctrl := { s.ctrl with state := .draining, oldWrites := [(.up0, 9)] }
    contexts := [{ contextUnder 4 3 .bank0 (writeAt 9 0x1C00BD10#32 [7]) with port := .up0 }]
    engine := { s.engine with tb0 := .discarding 2, tb1 := .discarding 3 }
    up0 := { s.up0 with
      tags := [9], ready := [[{ response := { tag := 9, result := .okay, data := [] }, origin := .surface }]] } }

/-- R107: its response ends the drain. -/
theorem test_response_send : (after (exec (.responseSend .up0 9) lastOldWrite)).map (fun t =>
    (t.ctrl.state, t.ctrl.oldWrites, t.up0.tags, t.contexts.length)) = some (.relocating, [], [], 0) := by decide +kernel
/-- R135, R136: at the 40th row the buffer writes into the other bank. -/
theorem test_row_read_answer : (after (exec (.rowReadAnswer (.ok (List.replicate 40 0xFF102030#32)))
    (tent (.reading (readingTent 39 false)) (.read 40)))).map (fun t => match t.engine.tb0 with
      | .writing w => (some w.bank, w.op, w.rows.length)
      | _ => (none, .fill, 0)) = some (some .bank1, .move, 40) := by decide +kernel
/-- R137: the 40th write answered makes the entry DONE and counts a move. -/
theorem test_row_write_answer : (after (exec (.rowWriteAnswer (.ok []))
    (tent (.writing (writingTent .move 39 false)) (words 40)))).map (fun t =>
      (entryAt t.engine.map { col := 0, row := 59 }, t.notice.counters.moved.value)) = some (.done, 1) := by
  decide +kernel
/-- R152: an answer to a discarding buffer is only counted down. -/
theorem test_discarded_answer : (after (exec (.discardedAnswer .memoryError) (tent (.discarding 2) (.read 40)))).map (fun t =>
    (t.engine.tb0, t.notice.counters.memoryErrors.value)) = some (.discarding 1, 0) := by decide +kernel
/-- 08 section 8.7 event 2: after the head the loader asks for 58 pixels at 0x0400_1010. -/
theorem test_loader_head : (after (exec (.loaderReadAnswer (.ok (pixelsOf (exampleHeader.take 16))))
    (loading (loadOf true false [] []) 4))).map (fun t => t.cmd.load.map fun l => (l.toIssue, l.length)) =
      some (some ([(0x04001010, 58)], 248)) := by decide +kernel
/-- R166: a change made while a write is in flight leaves the writer DUE at the answer. -/
theorem test_record_write_answer : (after (exec (.recordWriteAnswer (.ok []))
    (awaiting (.record .notice) .notice 0x04000100 (words 1)
      (noticing (fun n => { n with noticeWriter := .inFlightDue }) whole)))).map (fun t => t.notice.noticeWriter) =
      some .due := by decide +kernel
/-- R162, R163: an answered response write raises COMMAND_DONE, kind 9. -/
theorem test_response_write_answer : (after (exec (.responseWriteAnswer (.ok []))
    (awaiting (.record .response) .notice 0x04000004 (words 1)
      (noticing (fun n => { n with responseBusy := true }) whole)))).map (fun t => (t.notice.set, t.notice.responseBusy)) =
      some (512, false) := by decide +kernel
/-- R169: an answered counts write raises COUNTS_READY, kind 8. -/
theorem test_counts_write_answer : (after (exec (.countsWriteAnswer (.ok []))
    (awaiting (.record .counts) .notice 0x04000300 (words 7)
      (noticing (fun n => { n with countsBusy := some { reports := [], overtaken := false } }) whole)))).map (fun t =>
        t.notice.set) = some 256 := by decide +kernel
/-- R79, R179: a round begins with the byte 0x59 to H1 and the next falls due 5 ms later. -/
theorem test_poll_round : (after (exec .pollRound whole)).map (fun t =>
    (t.monitor.poll.map (·.frame), t.monitor.roundDue, t.now)) = some (some 0x59#8, 10000, 5000) := by decide +kernel
/-- 11 section 11.4: the reply 2C 6A 81 17 is valid and carries angle 362. -/
theorem test_sensor_reply : (after (exec (.sensorReply 100 { b0 := 0x2C, b1 := 0x6A, b2 := 0x81, b3 := 0x17 })
    State.reset)).map (fun t => (t.monitor.h1.history, t.monitor.h1.validRun, t.monitor.poll.map (·.frame))) =
      some ([362], 1, some 0x5B#8) := by decide +kernel

/-- R81: a reply that begins after the limit ends the poll at the limit, as a miss. -/
theorem test_late_reply_is_a_miss : (after (exec (.sensorReply 1001 { b0 := 0x2C, b1 := 0x6A, b2 := 0x81, b3 := 0x17 })
    State.reset)).map (fun t => (t.monitor.h1.history, t.notice.counters.misses.value, t.now)) = some ([], 1, 1020) := by
  decide +kernel
/-- R79, R81: no round falls due past the end of the poll in progress. -/
theorem test_round_waits_for_the_poll : refusal (exec .pollRound State.reset) = some .outOfTimeOrder := by decide +kernel

/-- 05 section 5.12: H2 of the standing posture before its third miss. -/
def standing : State :=
  let s := steady exampleTable 4 .bank0
  { s with monitor := { s.monitor with
      h1 := presentAt 680, h2 := { presentAt 240 with missRun := 2 }, candidate := some 4
      poll := some { hinge := .h2, frame := 0x5B#8, frameEnd := 520 }, roundDue := 5000 } }

/-- 05 section 5.12: the third miss in a row makes the hinge LOST and starts the fallback timer. -/
theorem test_reply_timeout : (after (exec .replyTimeout standing)).map (fun t =>
    (t.monitor.h2.state, t.monitor.h2.history, t.monitor.h2.filtered, t.monitor.fallback)) =
      some (.lost, [], 240, .running 2001520) := by decide +kernel
/-- 05 section 5.11: at the expiry layout 3 is committed. -/
theorem test_settle_expiry : (after (exec .settleTimerExpiry { whole with monitor := { whole.monitor with
    candidate := some 3, settle := .running 3 4000 } })).map (fun t =>
      (t.monitor.settle, t.ctrl.generation, t.ctrl.target.map (·.number), t.notice.set)) =
      some (.expired 3, 7, some 3, 1) := by decide +kernel
/-- 05 section 5.12: the fallback timer asks for layout 0. -/
theorem test_fallback_expiry : (after (exec .fallbackTimerExpiry { standing with monitor := { standing.monitor with
    poll := none, roundDue := 3000000, fallback := .running 20000 } })).map (fun t =>
      (t.monitor.fallback, t.ctrl.target.map (·.number), t.notice.set)) = some (.spent, some 0, 9) := by decide +kernel

/-- FLIP_WAIT between two layouts, every tile finished. -/
def flipping (n m : Nat) (slot : Option Nat) : State :=
  let s := steady exampleTable n .bank0
  { s with ctrl := { s.ctrl with
      state := .flipWait, target := some (layoutOf exampleTable m), old := some (layoutOf exampleTable n), slot := slot } }

/-- R114: the flip at a FRAME_START. -/
theorem test_frame_start_flips : (after (exec (.frameStart 100) (flipping 2 1 none))).map (fun t =>
    (t.ctrl.frontBank, t.ctrl.active.map (·.number), t.ctrl.state, t.notice.counters.transitions.value)) =
      some (.bank1, some 1, .steady, 1) := by decide +kernel
/-- R120: three frame periods without a FRAME_START lose panel timing. -/
theorem test_loss_expiry : (after (exec .lossTimerExpiry { whole with monitor := { whole.monitor with roundDue := 30000 } })).map
    (fun t => (t.frame.panel, t.frame.lossTimer, t.notice.set, t.now)) = some (.lost, none, 64, 24999) := by decide +kernel
/-- 08 section 8.7 event 1. -/
theorem test_publish : (after (exec (.publish .up0 0 0x21 0) whole)).map (fun t =>
    (t.cmd.lastSeq, t.cmd.load.map (·.toIssue), t.ctrl.loadHold)) =
      some (0x21, some [(0x04001000, 4)], true) := by decide +kernel
/-- R158: FORCE of a layout the table does not hold is answered BAD_ARGUMENT with its argument. -/
theorem test_force_bad_argument : (after (exec (.force .up0 0 0x21 9) whole)).map (fun t =>
    (t.notice.responseNext, t.monitor.override)) =
      some (some { seq := 0x21, result := .badArgument, detail := 9 }, none) := by decide +kernel
/-- 08 section 8.7 event 4: FORCE while a load runs is BUSY. -/
theorem test_force_busy : (after (exec (.force .up0 0 0x22 0) (loading (loadOf false true [] []) 58))).map (fun t =>
    t.notice.responseNext) = some (some { seq := 0x22, result := .busy, detail := 0 }) := by decide +kernel
/-- R94: RELEASE starts the candidate's whole settle time, 400 ms for layout 4. -/
theorem test_release : (after (exec (.release .up0 0 0x21 0) { whole with monitor := { whole.monitor with
    candidate := some 4, override := some 1, settle := .expired 4 } })).map (fun t =>
      (t.monitor.override, t.monitor.settle)) = some (none, .running 4 400000) := by decide +kernel
/-- R159, R169: REPORT moves the counts into a counts write. -/
theorem test_report : (after (exec (.report .up0 0 0x21 0)
    (noticing (fun n => { n with counters := { n.counters with held := { value := 5, saturated := false } } }) whole))).map (fun t =>
      (t.notice.counters.held.value, t.notice.countsNext.map fun c => (c.counters.held.value, c.reports))) =
      some (0, some (5, [0x21])) := by decide +kernel
/-- R118, R160: RESTART builds layout 0 anew with TRANSITION_BEGUN alone pending. -/
theorem test_restart : (after (exec (.restart .up0 0 0x21 0) (noticing (fun n => { n with set := 1023 }) whole))).map (fun t =>
    (t.ctrl.generation, t.ctrl.target.map (·.number), t.ctrl.active, t.notice.set)) = some (7, some 0, none, 1) := by
  decide +kernel
/-- R160, R166: the response that RESTART forms stands behind the status write that was ready before it, though a response
of before stood first. -/
theorem test_restart_response_is_last : (after (exec (.restart .up0 0 0x21 0) (noticing (fun n => { n with
    noticeWriter := .clean, statusWriter := .due, responseNext := some { seq := 1, result := .done, detail := 0 }
    readyQueue := [[.response], [.status]] }) whole))).map (fun t => t.notice.readyQueue) =
      some [[.status], [.notice, .response]] := by decide +kernel
/-- R154: an unknown code is answered with the code as detail. -/
theorem test_bad_command : (after (exec (.badCommand .up1 0 0x21 0x7F 5) whole)).map (fun t => t.notice.responseNext) =
    some (some { seq := 0x21, result := .badCommand, detail := 0x7F }) := by decide +kernel
/-- R173: a blank store ends the reading at the head. -/
theorem test_boot_head : (after (exec (.bootHeadReadEnd (List.replicate 16 0xFF)) State.reset)).map (fun t =>
    (t.boot.state, t.boot.spi, t.pins.spiCsN)) = some (.check, none, .driven true) := by decide +kernel

/-- The boot loader with `n` bytes of the example image to come. -/
def bodyRead : State := { State.reset with boot := {
  state := .readBody, bytes := exampleImage.take 16, length := some 248, spi := some { sent := [0x03#8, 0#8, 0#8, 0x10#8], count := 232 } } }

/-- 10 section 10.4: the body of 232 bytes ends in CHECK. -/
theorem test_boot_body : (after (exec (.bootBodyReadEnd (exampleImage.drop 16)) bodyRead)).map (fun t =>
    (t.boot.state, t.boot.bytes.length, t.pins.spiClk)) = some (.check, 248, .driven false) := by decide +kernel

/-- CHECK with these bytes read. -/
def checking (bytes : List Byte) : State := { State.reset with
  monitor := { State.reset.monitor with poll := none }
  boot := { state := .check, bytes := bytes, length := some bytes.length, spi := none } }

/-- R174 step 4: a read that waited for the table is received with generation 1. -/
theorem test_boot_check_admits_waiting : (after (exec (.bootCheckEnd .up0) { checking exampleImage with
    up0 := { quiet.up0 with place := .waitTable (readAt 2 0x10000000#32 1) } })).map (fun t =>
      (t.contexts.map fun c => (c.port, c.tag, c.generation), t.up0.place)) = some ([(.up0, 2, 1)], .empty) := by
  decide +kernel
/-- R174: a blank store leaves the built-in table, TABLE_REJECTED and TRANSITION_BEGUN, with NOTIFY deasserted. -/
theorem test_boot_check : (after (exec (.bootCheckEnd .up0) (checking (List.replicate 16 0xFF)))).map (fun t =>
    (t.cmd.source, t.ctrl.generation, t.notice.set, t.notice.notify)) = some (.builtIn, 1, 33, false) := by decide +kernel

/-! ## Refusals and the queue -/

/-- Log 8: while RESET_N is asserted nothing but the release is taken. -/
theorem test_held_in_reset : refusal (exec .pollRound (asserted whole)) = some .heldInReset := by decide +kernel
/-- Log 3: no command passes the due time of a running timer. -/
theorem test_out_of_time_order : refusal (exec (.frameStart 5001) whole) = some .outOfTimeOrder := by decide +kernel
/-- R8: a wait whose cause stands does not end. -/
theorem test_still_waiting : refusal (exec (.intakeWaitEnd .up0) { whole with up0 := { whole.up0 with
    tags := [4], place := .waitTag (readAt 4 0#32 1) false } }) = some .stillWaiting := by decide +kernel
/-- R15: an answer goes to the oldest request in flight alone. -/
theorem test_answer_not_next : refusal (exec (.fragmentAnswer (.ok [])) whole) = some .answerNotNext := by decide +kernel
/-- A step runs the command at the front of the queue. -/
theorem test_step_runs_front : (after (step { State.reset with pending := [.resetNAssert, .pollRound] })).map (fun t =>
    (t.pins.resetAsserted, t.pending)) = some (true, [.pollRound]) := by decide +kernel
/-- Log 5: no word spells a command. -/
theorem test_no_word_spells_a_command : decodeTableWord 8 1 = none ∧ State.reset.withFetchWord 8 1 = State.reset := by
  exact ⟨rfl, rfl⟩

/-! ## Witnesses: for every statement with hypotheses, states and operands that meet them, clause by clause -/

/-- With the hold queue empty no tile is shared. -/
theorem no_held_tile {p : Port} {ts : List BankTile} {s : State} (h : s.engine.hold = []) : SharesNoHeldTile p ts s := by
  intro tag hm
  rw [h] at hm
  cases hm

/-- An EMPTY place holds no marked request. -/
theorem no_marked {p : Port} {s : State} (h : (portOf p s).place = .empty) (q : Request) :
    (portOf p s).place ≠ .waitTag q true := by
  rw [h]
  intro e
  cases e

theorem witness_StepRunsTheFrontCommand : State.reset.pending = [] := rfl

/-- With an SPI transaction open and with none. -/
theorem witness_ResetAssertAbandonsAndRests :
    (Released State.reset ∧ State.reset.boot.spi ≠ none) ∧ Released whole ∧ whole.boot.spi = none := by
  unfold Released; decide +kernel

theorem witness_ResetReleaseSetsEveryBlock : (asserted whole).pins.resetAsserted = true := rfl

/-- The ends of every range of R4. -/
theorem witness_AddressesAreClassified :
    [0, 0x03FFFFFF].map windowOf = [some .raw, some .raw] ∧
    [0x04000000, 0x0400FFFF].map windowOf = [some .system, some .system] ∧
    [0x04010000, 0x0FFFFFFF].map windowOf = [none, none] ∧
    [0x10000000, 0x13FFFFFF, 0x14000000, 0x17FFFFFF, 0x18000000, 0x1BFFFFFF, 0x1C000000, 0x1FFFFFFF].map windowOf =
      [0, 0, 1, 1, 2, 2, 3, 3].map (fun k => some (.surface k)) ∧
    [0x20000000, 0xFFFFFFFF].map windowOf = [none, none] := by decide

theorem witness_RefusedRequestIsAnsweredAddrErr : Released whole ∧
    ∀ r ∈ [readAt 0 0x10000002#32 1, readAt 31 0x13FFFFF0#32 8, readAt 2 0x04010000#32 64, readAt 3 0xFFFFFFFC#32 1],
      TakesTag .up0 r.tag whole ∧ presentable r = true ∧ admittedWindow r = none := by
  unfold Released TakesTag; decide +kernel

/-- A request to be refused behind an outstanding tag, and one whose tag has become free. -/
theorem witness_RefusedRequestIsAnsweredAddrErr_waits :
    let r := readAt 7 0x10000002#32 1
    tagOutstanding .up0 r.tag { whole with up0 := { whole.up0 with tags := [7] } } = true ∧
      (portOf .up0 { whole with up0 := { whole.up0 with place := .waitTag r false } }).place = .waitTag r false ∧
      tagOutstanding .up0 r.tag { whole with up0 := { whole.up0 with place := .waitTag r false } } = false := by decide +kernel

/-- Writes that hold the command word: one that repeats the last taken sequence, and one with a new one. -/
def commandWrites : List Request :=
  [writeAt 0 0x04000000#32 [0x00010220#32, 5], writeAt 0 0x04000000#32 [0x00000121#32]]

theorem witness_ForwardedRequestJoinsThePath : Released whole ∧
    (∀ r ∈ [readAt 0 0#32 64, readAt 0 0x03FFFFFC#32 1],
      TakesTag .up0 r.tag whole ∧ presentable r = true ∧ admittedWindow r = some .raw) ∧
    (Instr.systemWindowWrite .up0 (writeAt 0 0x04000FFC#32 [1])).WellFormed ∧
    (Instr.tableAreaWrite .up0 (writeAt 0 0x04000FFC#32 [1, 2])).WellFormed ∧
    (Instr.noticeRecordWrite .up0 (writeAt 0 0x04000100#32 [1])).WellFormed := by
  unfold Released TakesTag; decide +kernel
theorem witness_ForwardedRequestJoinsThePath_reads : ∀ r ∈ [readAt 0 0x04000100#32 1, readAt 0 0x0400FF00#32 64],
    presentable r = true ∧ bodyKind r.body = .read ∧ admittedWindow r = some .system := by decide +kernel
theorem witness_ForwardedRequestJoinsThePath_words :
    (∀ r ∈ commandWrites, presentable r = true ∧ admittedWindow r = some .system) ∧
    commandWrites.map (wordWrittenAt · 0x04000000) = [some 0x00010220#32, some 0x00000121#32] := by decide +kernel
theorem witness_ForwardedRequestJoinsThePath_no_tile : SharesNoHeldTile .up0 (rawTiles (readAt 0 0#32 64)) whole :=
  no_held_tile rfl

/-- A request in WAIT_ORDER whose tile has been finished. -/
def waitsOrder : State :=
  { whole with
    contexts := [contextUnder 1 0 .bank1 (writeAt 3 0x10000000#32 [1])]
    up1 := { whole.up1 with tags := [3], place := .waitOrder (writeAt 3 0x10000000#32 [1]) } }

/-- The transition from layout 4 to layout 5 with both buffers busy. -/
def busyTent : State := tent (.discarding 2) (.read 40)

/-- The tent write of 03 section 3.10.2 with one word, its tile pending. -/
def tentWrite (tag : Tag) : Request := writeAt tag 0x1C00BD10#32 [1]

/-- Its context in the transition, at UP1. -/
def tentContext (tag : Tag) : Context :=
  makeContext .up1 7 (layoutOf exampleTable 5) .bank1 (snapshotOf (some exampleTable) 3) 3 (tentWrite tag)

/-- The tent with a write of UP1 held. -/
def holdingTent : State :=
  { busyTent with
    contexts := [tentContext 3]
    engine := { busyTent.engine with hold := [(.up1, 3)] }
    up1 := { busyTent.up1 with tags := [3] } }

/-- The tent with 16 requests of UP0 held. -/
def fullTent : State :=
  { busyTent with engine := { busyTent.engine with hold := (List.range 16).map fun n => (.up0, Fin.ofNat 32 n) } }

/-- An accepted request with tag 4 waiting at UP1. -/
def waitingAt (pl : Place) (s : State) : State :=
  { s with contexts := s.contexts ++ [tentContext 4], up1 := { s.up1 with tags := s.up1.tags ++ [4], place := pl } }

/-- The order test passes. -/
theorem shares_none {p : Port} {ts : List BankTile} {s : State} (h : sharesHeldTile p ts s = false) :
    SharesNoHeldTile p ts s := (sharesHeldTile_iff p ts s).1 h

/-- The order test fails. -/
theorem shares_one {p : Port} {ts : List BankTile} {s : State} (h : sharesHeldTile p ts s = true) :
    ¬ SharesNoHeldTile p ts s := fun hn => by
  rw [(sharesHeldTile_iff p ts s).2 hn] at h
  cases h

/-- The waits for a tag and for the table: where they begin, where they stand, where they end. -/
theorem witness_RequestWaitsAndGoesOn :
    (let s := { whole with up0 := { whole.up0 with tags := [0] } };
      Released s ∧ presentable (readAt 0 0#32 1) = true ∧ (portOf .up0 s).place = .empty ∧
        tagOutstanding .up0 0 s = true) ∧
    (Released State.reset ∧ TakesTag .up0 0 State.reset ∧ presentable (readAt 0 0x10000000#32 1) = true ∧
      admittedWindow (readAt 0 0x10000000#32 1) = some (.surface 0) ∧ State.reset.ctrl.state = .loading) ∧
    (let r := readAt 0 0x10000000#32 1;
      tagOutstanding .up0 r.tag { whole with up0 := { whole.up0 with place := .waitTag r false } } = false ∧
        tagOutstanding .up0 r.tag { whole with up0 := { whole.up0 with place := .waitTable r } } = false ∧
        whole.ctrl.state ≠ .loading) ∧
    (∀ b ∈ [false, true], let s := { whole with up0 := { whole.up0 with tags := [0], place := .waitTag (readAt 0 0#32 1) b } }
      (portOf .up0 s).place = .waitTag (readAt 0 0#32 1) b ∧ tagOutstanding .up0 0 s = true) := by
  unfold Released TakesTag; decide +kernel

/-- A request received while a held one shares its tile, or while 16 are held; both waiting; and one whose tile has been
finished. -/
theorem witness_RequestWaitsAndGoesOn_held :
    (∀ s ∈ [holdingTent, fullTent], Released s ∧ TakesTag .up1 4 s ∧ Governs (layoutOf exampleTable 5) .bank1 s ∧
      (Port.up1, (4 : Tag)) ∉ s.engine.hold ∧ s.ctrl.generation = 7 ∧ s.cmd.shadow = some exampleTable) ∧
    presentable (tentWrite 4) = true ∧ admittedWindow (tentWrite 4) = some (.surface 3) ∧ (tentContext 4).fragments ≠ [] ∧
    MustBeHeld (tentContext 4) fullTent ∧ 16 ≤ fullTent.engine.hold.length ∧
    (∀ pl ∈ [Place.waitOrder (tentWrite 4), .waitHold (tentWrite 4)], ∀ s ∈ [holdingTent, fullTent],
      Released (waitingAt pl s) ∧ (portOf .up1 (waitingAt pl s)).place = pl ∧
      contextOf (.up1, 4) (waitingAt pl s) = some (tentContext 4) ∧ MustBeHeld (tentContext 4) (waitingAt pl s)) ∧
    Released waitsOrder ∧ (portOf .up1 waitsOrder).place = .waitOrder (writeAt 3 0x10000000#32 [1]) ∧
    contextOf (.up1, 3) waitsOrder = some (contextUnder 1 0 .bank1 (writeAt 3 0x10000000#32 [1])) ∧
    ¬ MustBeHeld (contextUnder 1 0 .bank1 (writeAt 3 0x10000000#32 [1])) waitsOrder := by
  unfold Released TakesTag Governs MustBeHeld; decide +kernel
theorem witness_RequestWaitsAndGoesOn_order :
    ¬ SharesNoHeldTile .up1 (tentContext 4).tiles holdingTent ∧ SharesNoHeldTile .up1 (tentContext 4).tiles fullTent ∧
    (∀ pl ∈ [Place.waitOrder (tentWrite 4), .waitHold (tentWrite 4)],
      ¬ SharesNoHeldTile .up1 (tentContext 4).tiles (waitingAt pl holdingTent) ∧
      SharesNoHeldTile .up1 (tentContext 4).tiles (waitingAt pl fullTent)) ∧
    SharesNoHeldTile .up1 (contextUnder 1 0 .bank1 (writeAt 3 0x10000000#32 [1])).tiles waitsOrder := by
  refine ⟨shares_one (by decide +kernel), shares_none (by decide +kernel), fun pl h => ?_, no_held_tile rfl⟩
  simp only [List.mem_cons, List.not_mem_nil, or_false] at h
  rcases h with rfl | rfl <;> exact ⟨shares_one (by decide +kernel), shares_none (by decide +kernel)⟩

/-- A raw bank window read of the held tile, and of a tile nobody holds; its context is absent. -/
theorem witness_RequestWaitsAndGoesOn_raw :
    let r := readAt 4 0x0213F908#32 1;
    let s := { holdingTent with up1 := { holdingTent.up1 with tags := [3, 4], place := .waitOrder r } };
    Released holdingTent ∧ TakesTag .up1 4 holdingTent ∧ presentable r = true ∧ admittedWindow r = some .raw ∧
      (portOf .up1 s).place = .waitOrder r ∧ contextOf (.up1, r.tag) s = none := by
  unfold Released TakesTag; decide +kernel
theorem witness_RequestWaitsAndGoesOn_raw_order :
    ¬ SharesNoHeldTile .up1 (rawTiles (readAt 4 0x0213F908#32 1)) holdingTent ∧
      SharesNoHeldTile .up1 (rawTiles (readAt 4 0x0013F908#32 1)) holdingTent :=
  ⟨shares_one (by decide +kernel), shares_none (by decide +kernel)⟩

/-- One request with a fragment, and one to the absent surface 2 with none; in STEADY, in FLIP_WAIT, and in RELOCATING with
every tile finished. -/
theorem witness_SurfaceRequestInSteady :
    let finished := { busyTent with engine := { busyTent.engine with map := State.reset.engine.map } };
    (∀ e ∈ [(whole, 1, Bank.bank1), (flipping 2 1 none, 1, .bank1), (finished, 5, .bank1)],
      Released e.1 ∧ TakesTag .up1 3 e.1 ∧ Governs (layoutOf exampleTable e.2.1) e.2.2 e.1 ∧
        (Port.up1, (3 : Tag)) ∉ e.1.engine.hold ∧ e.1.cmd.shadow = some exampleTable) ∧
    whole.ctrl.state = .steady ∧ (flipping 2 1 none).ctrl.state = .flipWait ∧
    tilesFinished finished.engine.map (tentContext 3).tiles = true ∧ ¬ MustBeHeld (tentContext 3) finished ∧
    (tentContext 3).fragments ≠ [] ∧ presentable (tentWrite 3) = true ∧ admittedWindow (tentWrite 3) = some (.surface 3) ∧
    (let r := writeAt 3 0x10000000#32 [1];
      presentable r = true ∧ admittedWindow r = some (.surface 0) ∧ (contextUnder 1 0 .bank1 r).fragments ≠ []) ∧
    (let r := readAt 3 0x18000000#32 2;
      presentable r = true ∧ admittedWindow r = some (.surface 2) ∧ (contextUnder 1 2 .bank1 r).fragments = []) := by
  unfold Released TakesTag Governs MustBeHeld; decide +kernel
theorem witness_SurfaceRequestInSteady_no_tile (ts : List BankTile) : SharesNoHeldTile .up1 ts whole := no_held_tile rfl

/-- With both buffers busy and with TB0 EMPTY, received now and waiting in either place. -/
theorem witness_SurfaceRequestIsHeld :
    (∀ s ∈ [busyTent, tent .empty (.read 40)],
      Released s ∧ TakesTag .up1 4 s ∧ Governs (layoutOf exampleTable 5) .bank1 s ∧ (Port.up1, (4 : Tag)) ∉ s.engine.hold ∧
      s.engine.hold.length < 16 ∧ s.ctrl.generation = 7 ∧ s.cmd.shadow = some exampleTable ∧ MustBeHeld (tentContext 4) s ∧
      ∀ pl ∈ [Place.waitOrder (tentWrite 4), .waitHold (tentWrite 4)], (portOf .up1 (waitingAt pl s)).place = pl ∧
        contextOf (.up1, 4) (waitingAt pl s) = some (tentContext 4) ∧ MustBeHeld (tentContext 4) (waitingAt pl s)) ∧
    presentable (tentWrite 4) = true ∧ admittedWindow (tentWrite 4) = some (.surface 3) ∧ (tentContext 4).fragments ≠ [] ∧
    busyTent.engine.tb0 ≠ .empty ∧ busyTent.engine.tb1 ≠ .empty := by
  unfold Released TakesTag Governs MustBeHeld; decide +kernel
theorem witness_SurfaceRequestIsHeld_no_tile (ts : List BankTile) : SharesNoHeldTile .up1 ts busyTent := no_held_tile rfl

theorem witness_NoticeRecordWriteAcknowledges :
    let r := writeAt 1 0x04000100#32 [0x00000201#32];
    ∀ t ∈ [writeModeTable, exampleTable], Released (steady t 1 .bank1) ∧ TakesTag .up0 1 (steady t 1 .bank1) ∧
      (Instr.noticeRecordWrite .up0 r).WellFormed ∧ wordWrittenAt r noticeRecordAddress = some 0x00000201#32 := by
  unfold Released TakesTag; decide +kernel

theorem witness_NoticeRecordReadAcknowledges :
    (∀ t ∈ [writeModeTable, exampleTable], Released (readBack t) ∧ nextResponse .up0 7 (readBack t) = some (noticeAnswer 1) ∧
      (Port.up0, (7 : Tag)) ∉ (readBack t).ctrl.oldWrites ∧ (portOf .up0 (readBack t)).place = .empty) ∧
    (noticeAnswer 1).origin = .forwarded (readAt 7 0x04000100#32 1) ∧
    noticeReadPosition (readAt 7 0x04000100#32 1) = some 0 := by
  unfold Released; decide +kernel

/-- Sent by RESPONSE_SEND, with a request that RESTART marked waiting for its tag: the kind is removed and the request
answered (R19, R165). -/
theorem witness_NoticeRecordReadAcknowledges_marked :
    let s := { readBack exampleTable with
      up0 := { (readBack exampleTable).up0 with place := .waitTag (readAt 7 0#32 2) true } };
    nextResponse .up0 7 s = some (noticeAnswer 1) ∧
    ∀ c ∈ [Instr.noticeRecordRead .up0 7, .responseSend .up0 7], (after (exec c s)).map (fun t =>
      (t.notice.set, t.up0.place, t.up0.tags, t.up0.ready.map (·.map (·.response)))) =
      some (2, .empty, [7], [[{ tag := 7, result := .aborted, data := [0, 0] }]]) := by decide +kernel

/-- A ready response of UP0 with tag 9 to a forwarded request. -/
def answered (r : Request) : State :=
  { whole with up0 := { whole.up0 with
      tags := [9], ready := [[{ response := { tag := 9, result := .okay, data := [] }, origin := .forwarded r }]] } }

theorem witness_ResponseIsSent :
    (∀ r ∈ [writeAt 9 0#32 [1], writeAt 9 0x04000100#32 [1]], Released (answered r) ∧
      (nextResponse .up0 9 (answered r)).map (·.origin) = some (.forwarded r) ∧
      (Port.up0, (9 : Tag)) ∉ (answered r).ctrl.oldWrites ∧ (portOf .up0 (answered r)).place = .empty) ∧
    writesNoticeRecord (writeAt 9 0#32 [1]) = false ∧ noticeReadPosition (writeAt 9 0#32 [1]) = none ∧
    writesNoticeRecord (writeAt 9 0x04000100#32 [1]) = true := by
  unfold Released; decide +kernel

/-- An old write that is not the last one, and a request marked by RESTART that waits for the tag. -/
theorem witness_ResponseIsSent_old_and_marked :
    (let s := { lastOldWrite with ctrl := { lastOldWrite.ctrl with oldWrites := [(.up0, 9), (.up1, 3)] } };
      Released s ∧ (nextResponse .up0 9 s).map (·.origin) = some .surface ∧ s.ctrl.state = .draining ∧
        (Port.up0, (9 : Tag)) ∈ s.ctrl.oldWrites ∧ ∃ k ∈ s.ctrl.oldWrites, k ≠ (.up0, 9)) ∧
    (let r := readAt 9 0#32 2;
      let s := { answered (writeAt 9 0#32 [1]) with up0 := { (answered (writeAt 9 0#32 [1])).up0 with place := .waitTag r true } };
      Released s ∧ (nextResponse .up0 9 s).isSome = true ∧ (portOf .up0 s).place = .waitTag r true ∧ r.tag = 9) := by
  unfold Released; decide +kernel

/-- With tiles pending and with every tile finished; panel timing PRESENT and LOST. -/
theorem witness_LastOldWriteEndsTheDrain :
    let done := { lastOldWrite with engine := State.reset.engine };
    (∀ x ∈ [lastOldWrite, done], ∀ p ∈ [PanelTiming.present, .lost],
      let s := { x with frame := { x.frame with panel := p } };
      Released s ∧ (nextResponse .up0 9 s).map (·.origin) = some .surface ∧ (portOf .up0 s).place = .empty ∧
        s.ctrl.state = .draining ∧ s.ctrl.oldWrites = [(.up0, 9)] ∧ s.frame.panel = p) ∧
    relocationComplete lastOldWrite.engine = false ∧ relocationComplete done.engine = true := by
  unfold Released; decide +kernel

/-- A request that RESTART marked waits for the tag of the last old write (R19, R108). -/
theorem witness_LastOldWriteEndsTheDrain_marked :
    let s := { lastOldWrite with up0 := { lastOldWrite.up0 with place := .waitTag (readAt 9 0#32 2) true } };
    (portOf .up0 s).place = .waitTag (readAt 9 0#32 2) true ∧ (after (exec (.responseSend .up0 9) s)).map (fun t =>
      (t.ctrl.state, t.up0.place, t.up0.tags, t.up0.ready.flatten.map (·.response))) =
      some (.relocating, .empty, [9], [{ tag := 9, result := .aborted, data := [0, 0] }]) := by decide +kernel

/-- DN with `n` requests in flight and a forwarded request waiting on UP1 alone. -/
def granting (n : Nat) : State :=
  { whole with
    dn := { inFlight := List.replicate n
              { request := { requester := .path .up0, address := 0, body := .read 1 }
                owner := .forward .up0 (readAt 1 0#32 1), stale := false }
            lastGranted := .notice }
    up1 := { whole.up1 with path := [.forward (readAt 5 0x80#32 2)] } }

/-- After the notice unit's place UP0's path does not wait and UP1's does; after UP1's place the order comes round to it
last. -/
theorem witness_ArbiterGrantsInCyclicOrder :
    let places : List Requester := [.path .up0, .path .up1, .relocation, .loader, .notice];
    Released (granting 47) ∧ (granting 47).dn.inFlight.length < 48 ∧ places[4]? = some (granting 47).dn.lastGranted ∧
    places[(4 + 2) % 5]? = some (.path .up1) ∧ (∀ k ∈ [1], ∀ b, places[(4 + k) % 5]? = some b →
      requesterWaits (granting 47) b = false) ∧
    requesterWaits (granting 47) (.path .up1) = true ∧
    (requesterIssue .notice (.path .up1) (granting 47)).isSome = true ∧
    (let clean := noticing (fun n => { n with noticeWriter := .clean, statusWriter := .clean, readyQueue := [] }) (granting 0);
      let s := { clean with dn := { clean.dn with lastGranted := .path .up1 } };
      places[1]? = some s.dn.lastGranted ∧ places[(1 + 5) % 5]? = some (.path .up1) ∧
      ∀ k ∈ [1, 2, 3, 4], ∀ b ∈ places[(1 + k) % 5]?, requesterWaits s b = false) ∧
    Released (granting 48) ∧ 48 ≤ (granting 48).dn.inFlight.length := by
  refine ⟨by unfold Released; decide +kernel, by decide +kernel, by decide +kernel, by decide +kernel, fun k hk b hb => ?_,
    by decide +kernel, by decide +kernel, by decide +kernel, by unfold Released; decide +kernel, by decide +kernel⟩
  simp only [List.mem_singleton] at hk
  subst hk
  cases hb
  decide +kernel

theorem witness_RequestersIssueTheirRequests :
    (portOf .up1 (granting 0)).path = .forward (readAt 5 0x80#32 2) :: [] ∧
    (let s := tent (.reading { readingTent 0 false with issued := 39 }) (.read 40);
      nextBuffer s.engine = some .tb0 ∧ bufferOf .tb0 s.engine = .reading { readingTent 0 false with issued := 39 }) ∧
    (let s := tent (.writing { writingTent .fill 0 false with issued := 0 }) (words 40);
      nextBuffer s.engine = some .tb0 ∧ bufferOf .tb0 s.engine = .writing { writingTent .fill 0 false with issued := 0 }) ∧
    (noticing (fun n => { n with responseNext := some { seq := 1, result := .done, detail := 0 } }) whole).notice.responseNext =
      some { seq := 1, result := .done, detail := 0 } ∧
    (loading (loadOf false false [] [(0x04001010, 58)]) 4).cmd.load = some (loadOf false false [] [(0x04001010, 58)]) ∧
    (noticing (fun n => { n with countsNext := some { counters := Counters.zero, reports := [1] } }) whole).notice.countsNext =
      some { counters := Counters.zero, reports := [1] } := by decide +kernel

/-- Both buffers with a request, the one that issued the last alone, and none: abandoned, all issued, discarding. -/
theorem witness_RequestersIssueTheirRequests_turns :
    let reads := fun n abandon => TileBuffer.reading { readingTent 0 abandon with issued := n };
    let writes := fun n => TileBuffer.writing { writingTent .fill 0 false with issued := n };
    let turn := fun tb0 tb1 => nextBuffer { whole.engine with tb0 := tb0, tb1 := tb1, lastIssuer := .tb1 };
    turn (writes 39) (reads 0 false) = some .tb0 ∧ turn (reads 39 true) (reads 39 false) = some .tb1 ∧
    turn (writes 40) (.discarding 1) = none ∧ turn .empty (reads 40 false) = none := by decide +kernel

/-- R166: two writes that became ready in one event before a third, the operand one of the two and not. -/
theorem witness_RequestersIssueTheirRequests_order :
    let s := noticing (fun n => { n with readyQueue := [[.notice, .status], [.response]] }) whole;
    s.notice.readyQueue = [.notice, .status] :: [[.response]] ∧
    RecordWriter.status ∈ [RecordWriter.notice, .status] ∧ RecordWriter.response ∉ [RecordWriter.notice, .status] ∧
    [RecordWriter.status, .response, .counts].map (fun w => (requesterIssue w .notice s).map fun i => i.sent.request.address) =
      [some 0x04000200, some 0x04000100, some 0x04000100] := by decide +kernel

/-- The middle and the last fragment of the tent read to issue, and the first of a write. -/
theorem witness_RequestersIssueTheirRequests_fragments :
    (∀ e ∈ [(tentRead 0 [(.ok, [1]), (.notIssued, []), (.notIssued, [])], 1), (tentRead 0 [(.ok, [1]), (.failed, []), (.notIssued, [])], 2)],
      let s := { e.1 with up1 := { e.1.up1 with path := [.surface 2] } };
      let states := (s.contexts.flatMap (·.fragments)).map (·.state);
      (portOf .up1 s).path = .surface 2 :: [] ∧ (contextOf (.up1, 2) s).isSome = true ∧ states[e.2]? = some .notIssued ∧
        ∀ m < e.2, states[m]? ≠ some .notIssued) ∧
    (let s := { holdingTent with up1 := { holdingTent.up1 with path := [.surface 3] } };
      (portOf .up1 s).path = .surface 3 :: [] ∧ contextOf (.up1, 3) s = some (tentContext 3) ∧
        ((tentContext 3).fragments.map (·.state))[0]? = some .notIssued ∧ (tentContext 3).kind = .write) := by decide +kernel

/-- The oldest request in flight. -/
def oldest (s : State) : InFlight :=
  s.dn.inFlight.headD { request := { requester := .notice, address := 0, body := .read 1 }, owner := .loader, stale := true }

theorem witness_FragmentAnswerIsRecorded :
    let middle := tentRead 1 [(.ok, [0xA1]), (.inFlight, []), (.notIssued, [])];
    ∀ s ∈ [middle, tentReadLast], Released s ∧
      (∀ a ∈ [Answer.ok [7], .memoryError], AnswerIsNext a (oldest s) [] s) ∧
      (∃ i ∈ [1, 2], (oldest s).owner = .fragment .up1 2 i) ∧ (contextOf (.up1, 2) s).isSome = true := by
  unfold Released AnswerIsNext; decide +kernel
/-- Both clauses: with G2 answered and G3 still to issue a fragment is open; with G3 answered none is. -/
theorem witness_FragmentAnswerIsRecorded_clauses :
    let states := fun (s : State) (i : Nat) => (s.contexts.flatMap (·.fragments)).modify i (fun g => { g with state := .ok, got := [7] });
    (∃ g ∈ states (tentRead 1 [(.ok, [0xA1]), (.inFlight, []), (.notIssued, [])]) 1, g.state = .notIssued ∨ g.state = .inFlight) ∧
      ∀ g ∈ states tentReadLast 2, g.state = .ok ∨ g.state = .failed := by decide +kernel

theorem witness_ForwardedAnswerIsReturned :
    let s := awaiting (.forward .up0 (readAt 1 0#32 2)) (.path .up0) 0 (.read 2) whole;
    Released s ∧ (∀ a ∈ [Answer.ok [1, 2], .memoryError], AnswerIsNext a (oldest s) [] s) ∧
      (oldest s).owner = .forward .up0 (readAt 1 0#32 2) := by
  unfold Released AnswerIsNext; decide +kernel

/-- Rows of both kinds, on both sides of the last one. -/
theorem witness_RowAnswersAreKept :
    (∀ n ∈ [38, 39], let s := tent (.reading (readingTent n false)) (.read 40)
      Released s ∧ AnswerIsNext (.ok (List.replicate 40 0)) (oldest s) [] s ∧ (oldest s).owner = .row .tb0 ∧
        bufferOf .tb0 s.engine = .reading (readingTent n false) ∧ (readingTent n false).abandon = false) ∧
    ∀ a ∈ [Answer.ok [], .memoryError], let s := tent (.writing (writingTent .move 38 false)) (words 40)
      Released s ∧ AnswerIsNext a (oldest s) [] s ∧ (oldest s).owner = .row .tb0 ∧
        bufferOf .tb0 s.engine = .writing (writingTent .move 38 false) ∧ (writingTent .move 38 false).answered + 1 ≠ 40 := by
  unfold Released AnswerIsNext; decide +kernel
/-- The panes of the tent's move. -/
theorem witness_RowAnswersAreKept_panes :
    ((layoutOf exampleTable 5).panes[tentMove.targetPane]?).isSome = true ∧
      ((layoutOf exampleTable 4).panes[tentMove.oldPane]?).isSome = true := by decide +kernel

/-- The first failing answer before and at the last read, and a later one; an OK answer once the move is abandoned, the
last of which starts the fill. -/
theorem witness_FailedRowReadAbandonsTheMove :
    ∀ e ∈ [(readingTent 5 false, Answer.memoryError), (readingTent 39 false, .memoryError), (readingTent 39 true, .memoryError),
        (readingTent 5 true, .ok (List.replicate 40 0)), (readingTent 39 true, .ok (List.replicate 40 0))],
      let s := tent (.reading e.1) (.read 40)
      Released s ∧ AnswerIsNext e.2 (oldest s) [] s ∧ (oldest s).owner = .row .tb0 ∧
        bufferOf .tb0 s.engine = .reading e.1 ∧ (e.2 = .memoryError ∨ e.1.abandon = true) ∧
        s.ctrl.target = some (layoutOf exampleTable 5) ∧
        ((layoutOf exampleTable 5).panes[e.1.move.targetPane]?).isSome = true := by
  unfold Released AnswerIsNext; decide +kernel

/-- The rows of a surface fill under layout 1: column 1085, of gain code 66 (04 section 4.8.1), in the first row and the
last. -/
theorem test_fill_rows :
    let rows := fillRows (layoutOf exampleTable 1) 0x80C86432#32 { col := 27, row := 0 };
    [0, 39].map (fun q => (rows.getD q [])[5]?) = [some 0x80FC7E3F#32, some 0x80FC7E3F#32] ∧ rows.length = 40 := by
  decide +kernel

theorem witness_TileOperationEnds :
    ∀ w ∈ [writingTent .move 39 false, writingTent .fill 39 false, writingTent .move 39 true],
      let s := tent (.writing w) (words 40);
      Released s ∧ (∀ a ∈ [Answer.ok [], .memoryError], AnswerIsNext a (oldest s) [] s) ∧ (oldest s).owner = .row .tb0 ∧
        bufferOf .tb0 s.engine = .writing w ∧ w.answered + 1 = 40 := by
  unfold Released AnswerIsNext; decide +kernel

/-- The transition from layout 4 to layout 5 with the promotion queue and the cursor as given. -/
def offering (c : CtrlState) (d : DrainKind) (queue : List Tile) (cursor : Nat) : State :=
  let s := moving exampleTable 4 5;
  { s with ctrl := { s.ctrl with state := c, drainKind := d }, engine := { s.engine with promotion := queue, cursor := cursor } }

/-- A queued move, a queued fill behind a move in a drain, the plan's first position, its end, and the passes with no
offer. -/
theorem witness_BufferTakesTheOffer :
    bufferOf .tb0 busyTent.engine ≠ .empty ∧
    (let s := offering .draining .restart [] 0;
      s.ctrl.state ≠ .relocating ∧ (s.ctrl.state ≠ .draining ∨ s.ctrl.drainKind = .restart)) ∧
    (let s := offering .relocating .commit [{ col := 0, row := 59 }] 0;
      bufferOf .tb0 s.engine = .empty ∧ s.ctrl.state = .relocating ∧
      (∀ t ∈ s.engine.promotion, isPending (entryAt s.engine.map t) = true) ∧
      s.engine.promotion = [] ++ { col := 0, row := 59 } :: []) ∧
    (let s := offering .draining .commit [{ col := 0, row := 59 }, { col := 27, row := 0 }] 0;
      s.ctrl.state = .draining ∧ s.ctrl.drainKind = .commit ∧
      (∀ t ∈ s.engine.promotion, isPending (entryAt s.engine.map t) = true) ∧
      s.engine.promotion = [{ col := 0, row := 59 }] ++ { col := 27, row := 0 } :: [] ∧
      isPendingFill (entryAt s.engine.map { col := 0, row := 59 }) = false ∧
      isPendingFill (entryAt s.engine.map { col := 27, row := 0 }) = true) ∧
    (let s := offering .relocating .commit [] 0;
      s.engine.cursor ≤ 0 ∧ (planTiles (targetRecord s))[0]? = some { col := 80, row := 0 } ∧
        isPending (entryAt s.engine.map { col := 80, row := 0 }) = true ∧ { col := 80, row := 0 } ∉ s.engine.promotion) ∧
    (let s := offering .relocating .commit [] 4860;
      (planTiles (targetRecord s)).length ≤ s.engine.cursor) := by decide +kernel

/-- R131, R147: TB0 takes the only queued tile, and both tiles of the held write are promoted in its place. -/
theorem test_take_promotes_held :
    let s := { holdingTent with engine := { holdingTent.engine with tb0 := .empty, promotion := [{ col := 0, row := 59 }] } };
    let t := takeTile .tb0 s;
    t.engine.promotion = [{ col := 80, row := 2 }, { col := 0, row := 57 }] ∧ t.notice.counters.promotions.value = 2 ∧
      t.engine.tb0 = .reading { readingTent 0 false with issued := 0 } ∧
      entryAt t.engine.map { col := 0, row := 59 } = .moving tentMove .tb0 := by decide +kernel

theorem witness_DiscardedAnswerIsDropped :
    (let s := { whole with dn := { whole.dn with inFlight := [
        { request := { requester := .loader, address := 0, body := .read 1 }, owner := .loader, stale := true }] } };
      Released s ∧ s.dn.inFlight = oldest s :: [] ∧ (oldest s).stale = true) ∧
    (∀ n ∈ [1, 2], let s := tent (.discarding n) (.read 40)
      Released s ∧ s.dn.inFlight = oldest s :: [] ∧ (oldest s).stale = false ∧ (oldest s).owner = .row .tb0 ∧
        bufferOf .tb0 s.engine = .discarding n) ∧
    (∀ n ∈ [1, 2], let l := { loadOf false false [] [] with abandoned := true, inFlight := n }
      let s := loading l 58;
      Released s ∧ s.dn.inFlight = oldest s :: [] ∧ (oldest s).stale = false ∧ (oldest s).owner = .loader ∧
        s.cmd.load = some l ∧ l.abandoned = true) := by
  unfold Released; decide +kernel

theorem witness_LoaderAnswerIsKept :
    (let l := loadOf true false [] [];
      let s := loading l 4;
      let data := pixelsOf (exampleHeader.take 16);
      Released s ∧ (oldest s).owner = .loader ∧ s.cmd.load = some l ∧ AnswerIsNext (.ok data) (oldest s) [] s ∧
        l.awaitingHead = true ∧ formatHeadFailure (l.bytes ++ bytesOfPixels data) = none) ∧
    (∀ l ∈ [loadOf false false [] [(0x04001110, 8)], { loadOf false false [] [] with inFlight := 2 }],
      let s := loading l 2;
      AnswerIsNext (.ok [1, 2]) (oldest s) [] s ∧ s.cmd.load = some l ∧ l.awaitingHead = false ∧
        (l.toIssue ≠ [] ∨ 2 ≤ l.inFlight)) ∧
    (let l := { loadOf false false [] [] with inFlight := 2 };
      let s := loading l 2;
      AnswerIsNext .memoryError (oldest s) [] s ∧ l.awaitingHead = false ∧ 2 ≤ l.inFlight) := by
  unfold Released AnswerIsNext; decide +kernel

/-- The last read of a load whose bytes are all held. -/
def lastRead (t : Table) (img : List Byte) (disturbed failed : Bool) : State :=
  let l := { loadOf false disturbed (img.take 16) [] with readFailed := failed };
  let s := steady t 0 .bank1;
  awaiting .loader .loader 0x04001010 (.read 58)
    { s with cmd := { s.cmd with load := some l }, ctrl := { s.ctrl with loadHold := true } }

/-- A disturbed, an unreadable, an invalid and a valid load, the last over a table with the same arrangement; each with the
last answer OK and a memory error, with the slot empty and naming layout 3. -/
theorem witness_TableLoadEnds :
    (∀ x ∈ [lastRead exampleTable exampleImage true false, lastRead exampleTable exampleImage false true,
        lastRead exampleTable exampleImage false false], ∀ slot ∈ [none, some 3],
      let s := { x with ctrl := { x.ctrl with slot := slot } };
      Released s ∧ (oldest s).owner = .loader ∧
        (∀ a ∈ [Answer.ok (pixelsOf (exampleImage.drop 16)), .memoryError], AnswerIsNext a (oldest s) [] s) ∧
        (s.cmd.load.map fun l => (l.awaitingHead, l.toIssue, l.inFlight)) = some (false, [], 1) ∧ s.ctrl.slot = slot) ∧
    (let image := (exampleImage.take 16 ++ bytesOfPixels (pixelsOf (exampleImage.drop 16))).take 248;
      validate image = none ∧ sameArrangement (layoutOf (tableOfImage image) 0) (layoutOf exampleTable 0) = true) ∧
    validate ((exampleImage.take 16 ++ bytesOfPixels (List.replicate 58 0)).take 248) ≠ none := by
  unfold Released AnswerIsNext; decide +kernel
/-- A head that fails its checks, and one that could not be read. -/
theorem witness_TableLoadEnds_head :
    let l := loadOf true false [] [];
    let s := loading l 4;
    Released s ∧ (oldest s).owner = .loader ∧ s.cmd.load = some l ∧ l.awaitingHead = true ∧
      (∀ a ∈ [Answer.ok (List.replicate 4 0), .memoryError], AnswerIsNext a (oldest s) [] s) ∧
      formatHeadFailure (bytesOfPixels (List.replicate 4 0)) ≠ none := by
  unfold Released AnswerIsNext; decide +kernel

/-- 08 section 8.7: record 0 of the example table is arranged otherwise than layout 0 of the built-in table. -/
theorem witness_NewArrangementIsCommitted :
    let s := lastRead builtInTable exampleImage false false;
    let image := (exampleImage.take 16 ++ bytesOfPixels (pixelsOf (exampleImage.drop 16))).take 248;
    Released s ∧ AnswerIsNext (.ok (pixelsOf (exampleImage.drop 16))) (oldest s) [] s ∧ (oldest s).owner = .loader ∧
      validate image = none ∧ s.ctrl.active = some (layoutOf builtInTable 0) ∧
      ((tableRecord (tableOfImage image) (layoutOf builtInTable 0).number).isSome = true) ∧
      sameArrangement (layoutOf (tableOfImage image) 0) (layoutOf builtInTable 0) = false := by
  unfold Released AnswerIsNext; decide +kernel

/-- A record write in flight. -/
def recording (w : RecordWriter) (f : NoticeUnit → NoticeUnit) : State :=
  awaiting (.record w) .notice 0x04000100 (words 1) (noticing f whole)

theorem witness_RecordWriteIsAnswered :
    (∀ s ∈ [recording .notice id, recording .status id, recording .response id,
        recording .counts fun n => { n with countsBusy := some { reports := [], overtaken := true } },
        recording .counts fun n => { n with countsBusy := some { reports := [], overtaken := false } }],
      Released s ∧ ∀ a ∈ [Answer.ok [], .memoryError], AnswerIsNext a (oldest s) [] s) ∧
    [RecordWriter.notice, .status, .response, .counts].map (fun w => (oldest (recording w id)).owner) =
      [.record .notice, .record .status, .record .response, .record .counts] := by
  unfold Released AnswerIsNext; decide +kernel

theorem witness_ReportIsAnsweredWithItsCounts :
    let s := recording .counts fun n => { n with countsBusy := some { reports := [1, 2], overtaken := false } };
    Released s ∧ (∀ a ∈ [Answer.ok [], .memoryError], AnswerIsNext a (oldest s) [] s) ∧
      (oldest s).owner = .record .counts ∧ s.notice.countsBusy = some { reports := [1] ++ [2], overtaken := false } := by
  unfold Released AnswerIsNext; decide +kernel

/-- The clock at the due time itself with the round before ended; and a round whose poll is still open at its due time. -/
theorem witness_PollRoundFallsDue :
    (let s := { whole with now := 5000 };
      Released s ∧ s.now ≤ s.monitor.roundDue ∧ (∀ due ∈ runningDues s, s.monitor.roundDue ≤ due) ∧ s.monitor.poll = none) ∧
    (let q : Poll := { hinge := .h2, frame := 0x5B#8, frameEnd := 4000 };
      let s := { whole with now := 4000, monitor := { whole.monitor with poll := some q } };
      Released s ∧ s.now ≤ s.monitor.roundDue ∧ (∀ due ∈ runningDues s, s.monitor.roundDue ≤ due) ∧
        s.monitor.poll = some q) := by
  unfold Released; decide +kernel

/-- Replies that begin at the first and at the last moment, one too late, the clock at an end and past it, a reply that
fails each test, and a time-out. -/
theorem witness_PollEndActsOnItsHinge :
    Released standing ∧ standing.monitor.poll = some { hinge := .h2, frame := 0x5B#8, frameEnd := 520 } ∧
    (∀ start ∈ [0, 1000, 1001], let ends := 520 + if start ≤ 1000 then start + 80 else 1000
      ∀ now ∈ [0, ends], let s := { standing with now := now }
        s.now ≤ ends ∧ (∀ due ∈ runningDues s, ends ≤ due) ∧ ends < ({ standing with now := ends + 1 } : State).now) ∧
    (∀ now ∈ [0, 1520], let s := { standing with now := now }
      s.now ≤ 520 + 1000 ∧ ∀ due ∈ runningDues s, 520 + 1000 ≤ due) ∧
    520 + 1000 < ({ standing with now := 1521 } : State).now ∧
    replyIsValid .h1 { b0 := 0x2C, b1 := 0x6A, b2 := 0x81, b3 := 0x17 } = true ∧
    (∀ f ∈ [{ b0 := 0x2C, b1 := 0x6A, b2 := 0x81, b3 := 0x18 }, { b0 := 0x2D, b1 := 0x6A, b2 := 0x81, b3 := 0x18 },
        ({ b0 := 0x2C, b1 := 0x6A, b2 := 0x01, b3 := 0x97 } : ReplyFrame)], replyIsValid .h1 f = false) := by
  unfold Released; decide +kernel

/-- The third miss in a row leaves a hinge not PRESENT: the fallback timer starts from IDLE, or runs on. A valid reply of H2
with both PRESENT runs matching in STEADY; with H1 LOST, or in LOADING, it does not. -/
theorem witness_PollEndActsOnItsHinge_timers :
    let reply : ReplyFrame := { b0 := 0x2D, b1 := 0xF0, b2 := 0x80, b3 := 0x9D };
    let lost := fun f => { standing with monitor := { standing.monitor with fallback := f } };
    let h1 := fun g => { standing with monitor := { standing.monitor with h1 := g, candidate := some 3 } };
    replyIsValid .h2 reply = true ∧
    [FallbackTimer.idle, .running 9000, .spent].map (fun f =>
      (after (exec .replyTimeout (lost f))).map fun t => t.monitor.fallback) =
        [some (.running 2001520), some (.running 9000), some .spent] ∧
    [presentAt 680, { presentAt 680 with state := .lost }].map (fun g =>
      (after (exec (.sensorReply 100 reply) (h1 g))).map fun t => (t.monitor.candidate, t.monitor.h2.missRun, t.now)) =
        [some (some 4, 0, 700), some (some 3, 0, 700)] := by decide +kernel

/-- 05 section 5.11: at 403 the widened window of layout 1 holds H2, at 410 still, at 411 no more; at 638 layout 3 is found. -/
theorem witness_MatchingFindsTheCandidate :
    let at_ := fun a2 : Nat => { whole with monitor := { whole.monitor with h2 := presentAt a2 } };
    [403, 410, 411, 596, 638].map (fun a => (runMatching (at_ a)).monitor.candidate) = [some 1, some 1, none, none, some 3] ∧
    (at_ 638).monitor.h1.state = .present ∧ (at_ 638).monitor.h2.state = .present ∧ (at_ 638).ctrl.state ≠ .loading ∧
    (at_ 638).cmd.shadow = some exampleTable ∧ (runMatching (at_ 638)).monitor.settle = .running 3 150000 := by decide +kernel

/-- Timers due now and later; with FORCE, and without it in STEADY, for the active layout and for another; in a
transition and out of it. -/
theorem witness_MonitorTimersExpire :
    (∀ n ∈ [1, 3], ∀ now ∈ [0, 4000], let s := { whole with now := now, monitor := { whole.monitor with settle := .running n 4000 } }
      Released s ∧ s.now ≤ 4000 ∧ (∀ d ∈ runningDues s, 4000 ≤ d) ∧ s.monitor.override = none ∧
        s.ctrl.state = .steady ∧ s.ctrl.loadHold = false) ∧
    activeNumber whole = some 1 ∧ tableRecord exampleTable 9 = none ∧ (tableRecord exampleTable 3).isSome = true ∧
    (let s := { busyTent with monitor := { busyTent.monitor with fallback := .running 4000 } };
      Released s ∧ (∀ d ∈ runningDues s, 4000 ≤ d) ∧ s.monitor.override = none ∧ intendedLayout s = some 5 ∧
        inTransition s.ctrl.state = true) ∧
    ({ whole with monitor := { whole.monitor with fallback := .running 4000, override := some 1 } } : State).monitor.override ≠ none := by
  unfold Released; decide +kernel

/-- Under load hold with another number active and with the same; a settle timer in a transition, for the target and for
another; a fallback timer in STEADY, whose layout 0 the table holds. -/
theorem witness_MonitorTimersExpire_requests :
    (∀ n ∈ [1, 3], let x := { whole with ctrl := { whole.ctrl with loadHold := true } };
      let s := { x with monitor := { x.monitor with settle := .running n 4000 } };
      Released s ∧ s.now ≤ 4000 ∧ (∀ d ∈ runningDues s, 4000 ≤ d) ∧ s.monitor.override = none ∧ s.ctrl.state = .steady ∧
        s.ctrl.loadHold = true ∧ activeNumber s = some 1) ∧
    (∀ n ∈ [3, 5], let s := { busyTent with monitor := { busyTent.monitor with settle := .running n 4000 } };
      Released s ∧ (∀ d ∈ runningDues s, 4000 ≤ d) ∧ s.monitor.override = none ∧ inTransition s.ctrl.state = true ∧
        targetNumber s = some 5) ∧
    (let s := { whole with monitor := { whole.monitor with fallback := .running 4000 } };
      Released s ∧ s.now ≤ 4000 ∧ (∀ d ∈ runningDues s, 4000 ≤ d) ∧ s.monitor.override = none ∧ intendedLayout s = some 1 ∧
        s.ctrl.state = .steady ∧ s.ctrl.loadHold = false ∧ activeNumber s ≠ some 0 ∧
        (tableRecord exampleTable 0).isSome = true) := by
  unfold Released; decide +kernel

/-- Frame counts on both sides of the interval of 60; a LOST panel whose last FRAME_START is just less than two periods
ago. -/
theorem witness_FrameStartIsCounted :
    (∀ n ∈ [0, 58, 59], ∀ e ∈ [0, 5000], ∀ u ∈ [whole, flipping 2 1 none, flipping 2 1 (some 3)],
      let s := noticing (fun u => { u with frameCount := n }) u
      Released s ∧ (∀ due ∈ runningDues s, s.now + e ≤ due)) ∧
    whole.ctrl.state ≠ .flipWait ∧ (flipping 2 1 none).ctrl.state = .flipWait ∧
    (exampleTable.report, builtInTable.report) = (60, 0) ∧
    (let s := { whole with now := 16665, monitor := { whole.monitor with roundDue := 20000 }
                           frame := { panel := .lost, lossTimer := none, lastStart := some 0 } };
      Released s ∧ (∀ due ∈ runningDues s, s.now + 0 ≤ due) ∧ s.now + 0 - 0 < 2 * exampleTable.framePeriod) := by
  unfold Released; decide +kernel

/-- At the interval in FLIP_WAIT, with a counts write that waits: the flip is counted before the transfer (log 14). -/
theorem witness_FrameStartIsCounted_transfer :
    let w : CountsWrite := { counters := { Counters.zero with transitions := { value := 5, saturated := false } }, reports := [7] };
    let s := noticing (fun u => { u with frameCount := 59, countsNext := some w }) (flipping 2 1 none);
    s.notice.countsNext = some w ∧ 60 ≤ s.notice.frameCount + 1 ∧
    (after (exec (.frameStart 100) s)).map (fun t =>
      (t.notice.countsNext.map fun v => (v.counters.transitions.value, v.reports), t.notice.counters.transitions.value)) =
      some (some (6, [7]), 0) := by decide +kernel

/-- With the slot empty, naming a layout of the table, and naming none of it; at a FRAME_START and at the loss expiry. -/
theorem witness_FlipExchangesTheBanks :
    (∀ slot ∈ [none, some 3, some 9], let s := { flipping 2 1 slot with monitor := { whole.monitor with roundDue := 30000 } }
      Released s ∧ s.ctrl.state = .flipWait ∧ (∀ due ∈ runningDues s, s.now + 24999 ≤ due) ∧ s.frame.panel = .present ∧
        s.frame.lossTimer = some 24999 ∧ (∀ d ∈ runningDues s, 24999 ≤ d)) ∧
    (tableRecord exampleTable 3).isSome = true ∧ tableRecord exampleTable 9 = none := by
  unfold Released; decide +kernel

/-- The completion test: with a tile pending, and with every tile finished, panel timing PRESENT and LOST. -/
theorem witness_FlipExchangesTheBanks_completion :
    relocationComplete busyTent.engine = false ∧
    ∀ panel ∈ [PanelTiming.present, .lost],
      let s := { busyTent with engine := State.reset.engine, frame := { busyTent.frame with panel := panel } };
      s.ctrl.state = .relocating ∧ relocationComplete s.engine = true ∧ s.frame.panel = panel := by decide +kernel

theorem witness_LossTimerExpires :
    (∀ p ∈ [PanelTiming.present, .lost], ∀ u ∈ [whole, flipping 2 1 none, flipping 2 1 (some 3)],
      let s := { u with monitor := { u.monitor with roundDue := 24999 }, frame := { u.frame with panel := p } };
      Released s ∧ s.frame.lossTimer = some 24999 ∧ s.now ≤ 24999 ∧ ∀ d ∈ runningDues s, 24999 ≤ d) ∧
    whole.ctrl.state ≠ .flipWait ∧ (flipping 2 1 none).ctrl.state = .flipWait := by
  unfold Released; decide +kernel

/-- A repeated sequence and a new one, in LOADING, in a transition, with a load running and in STEADY without. -/
theorem witness_CommandIsTakenOrTurnedAway :
    (∀ s ∈ [State.reset, busyTent, loading (loadOf false false [] []) 58, whole],
      Released s ∧ TakesTag .up0 31 s ∧ (255 : Byte) ≠ s.cmd.lastSeq ∧ s.cmd.lastSeq = s.cmd.lastSeq) ∧
    (0x05 : Byte) ∉ knownCodes ∧ State.reset.ctrl.state = .loading ∧ busyTent.ctrl.state ≠ .steady ∧
    (loading (loadOf false false [] []) 58).cmd.load ≠ none := by
  unfold Released TakesTag; decide +kernel

theorem witness_PublishBeginsALoad : Released whole ∧ TakesTag .up0 31 whole ∧ (0x21 : Byte) ≠ whole.cmd.lastSeq ∧
    whole.ctrl.state = .steady ∧ whole.cmd.load = none := by
  unfold Released TakesTag; decide +kernel

/-- Arguments 16 and 9, which the table does not hold, 3, which it does, and 1, which is active, in STEADY and in a
transition. -/
theorem witness_ForceIsTaken :
    (∀ s ∈ [whole, busyTent], Released s ∧ TakesTag .up0 31 s ∧ (0x21 : Byte) ≠ s.cmd.lastSeq ∧ s.ctrl.state ≠ .loading ∧
      s.cmd.load = none ∧ s.cmd.shadow = some exampleTable) ∧
    tableRecord exampleTable 16 = none ∧ tableRecord exampleTable 9 = none ∧ (tableRecord exampleTable 3).isSome = true ∧
    inTransition busyTent.ctrl.state = true ∧ whole.ctrl.state = .steady ∧ whole.ctrl.loadHold = false ∧
    activeNumber whole ≠ some 3 ∧ activeNumber whole = some 1 ∧ (tableRecord exampleTable 1).isSome = true := by
  unfold Released TakesTag; decide +kernel

/-- No candidate, the intended layout as the candidate, and another. -/
theorem witness_ReleaseIsTaken :
    (∀ c ∈ [none, some 1, some 3], let s := { whole with monitor := { whole.monitor with candidate := c, override := some 2 } }
      Released s ∧ TakesTag .up0 31 s ∧ (0x21 : Byte) ≠ s.cmd.lastSeq ∧ s.ctrl.state ≠ .loading ∧ s.cmd.load = none ∧
        intendedLayout s = some 1 ∧ s.cmd.shadow = some exampleTable) ∧ (tableRecord exampleTable 3).isSome = true := by
  unfold Released TakesTag; decide +kernel

/-- With no counts write waiting and with one. -/
theorem witness_ReportTransfersTheCounts :
    ∀ w ∈ [none, some { counters := Counters.zero, reports := [1] }],
      let s := noticing (fun n => { n with countsNext := w }) whole;
      Released s ∧ TakesTag .up0 31 s ∧ (0x21 : Byte) ≠ s.cmd.lastSeq ∧ s.ctrl.state ≠ .loading ∧ s.cmd.load = none ∧
        s.notice.countsNext = w := by
  unfold Released TakesTag; decide +kernel

/-- RESTART answers the held write ABORTED, and the accepted one waiting in WAIT_HOLD with it (R19). -/
theorem witness_RestartRebuildsLayoutZero_held :
    let s := waitingAt (.waitHold (tentWrite 4)) holdingTent;
    (Port.up1, (3 : Tag)) ∈ s.engine.hold ∧ (contextOf (.up1, 3) s).isSome = true ∧
    placeRequest (portOf .up1 s).place = some (tentWrite 4) ∧
    (after (exec (.restart .up0 0 0x30 0) s)).map (fun t =>
      (t.up1.ready.map (·.map (·.response)), t.contexts.length, t.engine.hold, t.up1.place)) =
      some ([[{ tag := 4, result := .aborted, data := [] }, { tag := 3, result := .aborted, data := [] }]], 0, [], .empty) := by
  decide +kernel

/-- A request in WAIT_TAG whose tag is outstanding stays with the mark; in WAIT_TABLE it is answered, its tag outstanding
(log 10). The context of the tag that the one in WAIT_TAG waits for is kept (R19). -/
theorem witness_RestartRebuildsLayoutZero_waits :
    (after (exec (.restart .up0 0 0x30 0)
      { whole with up1 := { whole.up1 with tags := [9], place := .waitTag (readAt 9 0#32 2) false } })).map (fun t =>
        (t.up1.place, t.up1.ready.length)) = some (.waitTag (readAt 9 0#32 2) true, 0) ∧
    (after (exec (.restart .up0 0 0x30 0) { whole with
      contexts := [tentContext 3], up1 := { whole.up1 with tags := [3], place := .waitTag (readAt 3 0#32 2) false } })).map
        (fun t => (t.up1.place, t.contexts.map (·.tag))) = some (.waitTag (readAt 3 0#32 2) true, [3]) ∧
    (after (exec (.restart .up0 0 0x30 0)
      { quiet with up1 := { quiet.up1 with place := .waitTable (readAt 9 0x10000000#32 2) } })).map (fun t =>
        (t.up1.place, t.up1.tags, t.up1.ready.flatten.map (·.response), t.ctrl.state)) =
        some (.empty, [9], [{ tag := 9, result := .aborted, data := [0, 0] }], .loading) := by decide +kernel

/-- R160, R170: a counts write in flight is marked and answers no REPORT; a load goes on with its reads in flight, and one
with none is gone. -/
theorem witness_RestartRebuildsLayoutZero_in_flight :
    (after (exec (.restart .up0 0 0x30 0) (noticing (fun n => { n with
      countsBusy := some { reports := [1, 2], overtaken := false } }) whole))).map (·.notice.countsBusy) =
      some (some { reports := [], overtaken := true }) ∧
    (∀ e ∈ [(0, none), (2, some (2, true, []))],
      (after (exec (.restart .up0 31 0x30 0) (loading { loadOf false false [] [(0x04001010, 58)] with inFlight := e.1 } 58))).map
        (fun t => t.cmd.load.map fun l => (l.inFlight, l.abandoned, l.toIssue)) = some e.2) := by decide +kernel

/-- R151, R152: what becomes of TB0: EMPTY it takes the first position of the boot plan; a buffer whose 5 requests are all
answered does the same, one with 2 of them unanswered and one that discards 4 discard. -/
theorem witness_RestartRebuildsLayoutZero_buffers :
    ∀ e ∈ [(TileBuffer.empty, some (Sum.inl ({ col := 0, row := 0 } : Tile))),
        (.reading { readingTent 5 false with issued := 5, answered := 5 }, some (.inl { col := 0, row := 0 })),
        (.reading { readingTent 5 false with issued := 5, answered := 3 }, some (.inr 2)),
        (.discarding 4, some (.inr 4))],
      (after (exec (.restart .up0 31 0x30 0) (tent e.1 (.read 40)))).bind (fun t =>
        match t.engine.tb0 with
        | .writing w => some (.inl w.tile)
        | .discarding n => some (.inr n)
        | _ => none) = e.2 := by decide +kernel

/-- In STEADY, in a transition with buffers at work, with a load running, and in LOADING. -/
theorem witness_RestartRebuildsLayoutZero :
    (∀ s ∈ [whole, busyTent, loading (loadOf false false [] []) 58, tent (.reading (readingTent 5 false)) (.read 40),
        tent (.writing (writingTent .fill 39 false)) (words 40)], Released s ∧ TakesTag .up0 31 s ∧
      (0x30 : Byte) ≠ s.cmd.lastSeq ∧ s.ctrl.state ≠ .loading ∧
      ((s.cmd.shadow.bind fun t => tableRecord t 0).map (·.number)) = some 0) ∧
    Released State.reset ∧ TakesTag .up0 31 State.reset ∧ (0x30 : Byte) ≠ State.reset.cmd.lastSeq ∧
    State.reset.ctrl.state = .loading := by
  unfold Released TakesTag; decide +kernel

/-- A head that passes checks 1 to 3, one that does not, and the body. -/
theorem witness_BootReadsEnd :
    Released State.reset ∧ State.reset.boot.state = .readHead ∧ (exampleImage.take 16).length = 16 ∧
    formatHeadFailure (exampleImage.take 16) = none ∧ formatHeadFailure (List.replicate 16 0xFF) ≠ none ∧
    Released bodyRead ∧ bodyRead.boot.state = .readBody ∧
    bodyRead.boot.spi = some { sent := [0x03#8, 0#8, 0#8, 0x10#8], count := 232 } ∧ (exampleImage.drop 16).length = 232 := by
  unfold Released; decide +kernel

/-- CHECK with a surface read waiting in WAIT_TABLE at both ports. -/
def checkingWaits (bytes : List Byte) : State :=
  let s := checking bytes
  { s with up0 := { s.up0 with place := .waitTable (readAt 2 0x10000000#32 1) }
           up1 := { s.up1 with place := .waitTable (readAt 3 0x10000000#32 1) } }

/-- A valid image and a blank store, with requests waiting and without. -/
theorem witness_BootCheckEnds :
    (∀ b ∈ [exampleImage, List.replicate 16 0xFF], ∀ s ∈ [checking b, checkingWaits b],
      Released s ∧ s.boot.state = .check ∧ outstandingWrites s = []) ∧
    validate exampleImage = none ∧ validate (List.replicate 16 0xFF) ≠ none ∧
    (tableRecord exampleTable 0).isSome = true ∧ (tableRecord builtInTable 0).isSome = true ∧
    admittedWindow (readAt 2 0x10000000#32 1) = some (.surface 0) := by
  unfold Released; decide +kernel
theorem witness_BootCheckEnds_waits : WaitsRight (checkingWaits exampleImage) := by
  refine ⟨fun p r h => ?_, fun p r h => ?_⟩ <;> cases p <;> cases h
  · decide
  · decide
  · exact ⟨by decide +kernel, 0, by decide⟩
  · exact ⟨by decide +kernel, 0, by decide⟩

/-- Half-distance 1, a first and a last distance of a halving, and a column beside the band. -/
theorem witness_GainCodeFollowsTheCurve :
    gainAt 255 1 0 = 255 ∧ gainAt 96 8 7 = 96 * 9 / 16 ∧ (2 * 1 < 2 ^ (2 / 1) ∧ gainAt 1 1 2 = 0) ∧
    inBand .h1 { slot := .p0, peak := 96, half := 8, band := 30 } 1110 = false ∧
    inBand .h1 { slot := .p0, peak := 96, half := 8, band := 30 } 1109 = true ∧
    creaseDistance 1080 1080 = 0 ∧ creaseDistance 1080 1079 = 0 ∧ creaseDistance 1080 1078 = 1 ∧
    inBand .h1 { slot := .p0, peak := 96, half := 8, band := 0 } 1080 = false := by decide

/-- Columns in the band of H1, in that of H2 alone, and in neither. -/
theorem witness_GainCodeFollowsTheCurve_bands :
    let c : CreaseContext := { slot := .p0, peak := 96, half := 8, band := 30 }
    (layoutOf exampleTable 1).crease1 = some c ∧ (layoutOf exampleTable 1).crease2 = some c ∧
      inBand .h1 c 1050 = true ∧ inBand .h2 c 2189 = true ∧ inBand .h1 c 2189 = false ∧ inBand .h1 c 1049 = false ∧
      inBand .h2 c 2190 = false := by decide +kernel

/-- The least and the greatest code and value that do not clamp, and a forwarded write on a path list. -/
theorem witness_CreaseArithmeticIsExact :
    (∀ e ∈ [(0, 0), (0, 255), (255, 0), (255, 127), (96, 185)], e.1 ≤ 255 ∧ (e.2 * (256 + e.1) + 128) / 256 ≤ 255) ∧
    (portOf .up1 (granting 0)).path = .forward (readAt 5 0x80#32 2) :: [] := by decide

theorem witness_PixelsArePlacedWithTheirTiles :
    let p : Pane := { surface := 3, orient := .q1, mirror := true, u0 := 0, v0 := 0, w := 60, h := 27, x0 := 54, y0 := 0 }
    PaneInside p ∧ ∀ q ∈ [({ x := 0, y := 0 } : LogicalPixel), { x := 2399, y := 1079 }], paneCovers p (q.x / 40) (q.y / 40) = true := by
  unfold PaneInside; decide

theorem witness_FragmentsStayInTheirBank : PanesRight (layoutOf exampleTable 5).panes := by
  unfold PanesRight PaneInside; decide +kernel

/-- 3.10: a pixel that both panes of the tent cover, one past the pane of layout 3, which a READ maps to ZERO and a WRITE
drops, and the positions of a descending fragment. -/
theorem witness_FragmentsStayInTheirBank_pixels :
    let covers := fun (n k u v : Nat) => (layoutOf exampleTable n).panes.map fun p => p.surface == k && paneCovers p u v;
    covers 5 3 2 0 = [true, true] ∧ covers 3 0 53 1 = [true] ∧ covers 3 0 54 1 = [false] ∧
    (contextUnder 3 0 .bank0 (readAt 0 0x10083D5C#32 2)).pixelMap = [some (0, 0), none] ∧
    (makeContext .up0 6 upsideDown .bank0 (snapshotOf (some exampleTable) 1) 1 (readAt 0 0x140010C0#32 16)).pixelMap =
      ((List.range 8).map fun i => some (0, 7 - i)) ++ (List.range 8).map fun i => some (1, 7 - i) := by decide +kernel

theorem witness_PlanReachesEveryTileOnce : PanesRight (layoutOf builtInTable 0).panes := by
  unfold PanesRight PaneInside; decide +kernel

/-- A tile with a source pane, one with none, and one that no pane owns (07 section 7.2.1). -/
theorem witness_PlanReachesEveryTileOnce_entries :
    let shows := fun (q p : Pane) (u v : Nat) => q.surface == p.surface && paneCovers q u v;
    (∀ p ∈ (layoutOf exampleTable 1).panes[0]?, paneCovers p 26 5 = true ∧ paneCovers p 27 5 = true ∧
      (∀ q ∈ (layoutOf exampleTable 2).panes[0]?, shows q p 26 5 = true) ∧
      ∀ q ∈ (layoutOf exampleTable 2).panes, shows q p 27 5 = false) ∧
    (layoutOf exampleTable 1).panes ≠ [] ∧ (layoutOf exampleTable 2).panes ≠ [] ∧
    ∀ p ∈ (layoutOf exampleTable 5).panes, paneOwns p { col := 27, row := 0 } = false := by decide +kernel

theorem witness_ValidImagesPlacePanesRightly : validate exampleImage = none := by decide +kernel

/-- The first byte and the last. -/
theorem witness_ChecksumSeesOneByte : imageLength exampleImage % 2 = 0 ∧ exampleImage.length = imageLength exampleImage ∧
    247 < exampleImage.length ∧ exampleImage[0]? ≠ some 2 ∧ exampleImage[247]? ≠ some 2 ∧
    imageChecksum exampleImage = 0xFFFF := by decide +kernel

theorem witness_RemainderReadsCoverTheImage : 120 ≤ 1376 ∧ 1376 ≤ 1376 ∧ remainderReads 120 = [(0x04001010, 26)] ∧
    (remainderReads 1376).map Prod.snd = [64, 64, 64, 64, 64, 20] := by decide

/-- A step that has a next state, from a state with the invariant of each statement. -/
theorem witness_steps : (after (step { whole with pending := [.pollRound] })).isSome = true ∧
    (after (exec (.frameStart 100) (flipping 2 1 none))).isSome = true := by decide +kernel
theorem witness_NotifyStaysRight : NotifyRight whole := by
  unfold NotifyRight
  constructor
  · intro h
    cases h
  · rintro ⟨t, k, -, h, -⟩
    revert h
    cases k <;> decide +kernel
theorem witness_BoundsStayRight :
    CountersRight whole ∧ HingesRight whole ∧ QueuesRight whole ∧ ClockRight whole ∧ ClockRight standing ∧
      ReadyRight whole := by
  refine ⟨fun i => ?_, ?_, ?_, ?_, ?_, ?_⟩
  · unfold CounterRight
    cases i <;> decide +kernel
  · unfold HingesRight HingeRight
    decide +kernel
  · unfold QueuesRight
    decide +kernel
  · unfold ClockRight
    decide +kernel
  · unfold ClockRight
    decide +kernel
  · refine ⟨by decide +kernel, by decide +kernel, fun w => ?_⟩
    cases w <;> decide +kernel
/-- A RESTART word presented, and one that waits for its tag. -/
theorem witness_BoundsStayRight_restart :
    let r := commandRequest 9 0x21 0x0F 0;
    (∃ w, wordWrittenAt r commandWordAddress = some w ∧ commandCode w = 0x0F) ∧
    requestsBrought (.restart .up0 9 0x21 0) whole = [r] ∧
    requestsBrought (.intakeWaitEnd .up0) { whole with up0 := { whole.up0 with place := .waitTag r false } } = [r] :=
  ⟨⟨0x00000F21#32, by decide, by decide⟩, rfl, rfl⟩
theorem witness_TransitionStaysRight : TransitionRight whole where
  records := by unfold RecordsRight; decide +kernel
  boot := by unfold BootRight; decide +kernel
  load := by
    refine ⟨⟨fun h => ?_, fun ⟨l, h, _⟩ => ?_⟩, fun h => ?_⟩ <;> cases h
  slot := fun n h => by cases h
  map := by unfold MapRight; decide +kernel
/-- A relocation with a move taken from the promotion queue in TB0 and the plan's first tile in TB1, another tile queued. -/
def relocating : State := takeTiles (offering .relocating .commit [{ col := 0, row := 59 }, { col := 27, row := 0 }] 0)
theorem test_takes_queue_then_cursor :
    relocating.engine.promotion = [] ∧
    [({ col := 0, row := 59 } : Tile), { col := 27, row := 0 }].map (entryAt relocating.engine.map) =
      [.moving { source := { col := 80, row := 0 }, oldPane := 0, targetPane := 1 } .tb0, .filling .dark .tb1] := by
  decide +kernel
/-- The invariants hold of a part with both buffers at work. -/
theorem witness_TransitionStaysRight_tiles : QueuesRight relocating ∧ PlacesRight relocating ∧ TilesRight relocating := by
  have places : PlacesRight relocating := by
    refine ⟨fun t h => ?_, fun c h => ?_, fun c h => ?_, fun c h => ?_⟩ <;>
      simp only [relocating, takeTiles_keeps, offering, moving, steady, quiet] at h <;> cases h
    · unfold TableRight PanesRight PaneInside; decide +kernel
    all_goals unfold PanesRight PaneInside; decide +kernel
  refine ⟨by unfold QueuesRight; decide +kernel, places, takeTiles_tiles ?_ (by decide) ?_⟩
  · have op : ∀ t, OnPanel t → isPending (entryAt (planMap (layoutOf exampleTable 5) (some (layoutOf exampleTable 4))) t) = true :=
      fun t ht => by rw [entryAt_planMap _ _ ht]; exact planEntry_pending _ _ _
    refine ⟨nofun, ?_, ?_, ?_, ?_, ?_⟩
    · exact fun t h => (fun o => ⟨o, op t o⟩) (by revert t; unfold OnPanel; decide)
    · exact fun t m b ht he => absurd ((congrArg isPending he).symm.trans (op t ht)) nofun
    · exact fun t k b ht he => absurd ((congrArg isPending he).symm.trans (op t ht)) nofun
    · intro b r h; cases b <;> cases h
    · intro b r h; cases b <;> cases h
  · exact planTiles_panel (places.2.2.1 _ (by simp [relocating, offering, moving, targetRecord]))
theorem witness_TransitionStaysRight_relocating : TransitionRight relocating where
  records := by unfold RecordsRight; decide +kernel
  boot := by unfold BootRight; decide +kernel
  load := by
    refine ⟨⟨fun h => ?_, fun ⟨l, h, _⟩ => ?_⟩, fun h => ?_⟩ <;> simp [relocating, offering, moving, steady, quiet] at h <;> cases h
  slot := fun n h => by simp [relocating, offering, moving, steady, quiet] at h; cases h
  map := by unfold MapRight; decide +kernel
theorem witness_OutstandingStaysRight : OutstandingRight waitsOrder := by
  refine ⟨by decide +kernel, by decide +kernel, ⟨fun p r h => ?_, fun p r h => ?_⟩, by decide +kernel, by decide +kernel⟩
  · cases p <;> cases h
    decide
  · cases p <;> cases h
theorem witness_PlacesStayRight : PlacesRight State.reset := by
  refine ⟨?_, ?_, ?_, ?_⟩ <;> intro t h <;> cases h
/-- The flip of `test_frame_start_flips` starts from a state with the invariant. -/
theorem witness_OnlyAFlipChangesTheBank : TransitionRight (flipping 2 1 none) where
  records := by unfold RecordsRight; decide +kernel
  boot := by unfold BootRight; decide +kernel
  load := by
    refine ⟨⟨fun h => ?_, fun ⟨l, h, _⟩ => ?_⟩, fun h => ?_⟩ <;> cases h
  slot := fun n h => by cases h
  map := by unfold MapRight; decide +kernel
theorem witness_OnlyACommitRaisesTheGeneration :
    (after (exec .settleTimerExpiry { whole with monitor := { whole.monitor with settle := .running 3 4000 } })).map
      (·.ctrl.generation) = some 7 ∧ whole.ctrl.generation = 6 := by decide +kernel
theorem witness_OnlyACommitRaisesTheGeneration_waits :
    WaitsRight { whole with monitor := { whole.monitor with settle := .running 3 4000 } } := by
  refine ⟨fun p r h => ?_, fun p r h => ?_⟩ <;> cases p <;> cases h
theorem witness_OnlyALoadChangesTheTable : (after (exec .pollRound whole)).isSome = true := by decide +kernel
theorem witness_StatusChangeIsWritten :
    (after (exec .replyTimeout standing)).map (fun t => decide (statusFields t ≠ statusFields standing)) = some true := by
  decide +kernel

end Sys2Proof.Tests
end

section
/-!
What a command that takes place does, said once: the event of its row and the state it leaves before the outputs settle.
Every statement about all steps goes through `exec_event`.
-/
namespace Sys2Proof.Machine

/-- `Event s c u`: command `c` takes place in `s`, and `u` is the part at its event's end, before the outputs settle. The
two commands of RESET_N have no such end and are not among them. -/
inductive Event (s : State) : Instr → State → Prop
  | presented {c p r} : requestsBrought c s = [r] → (portOf p s).place = .empty → presentable r = true →
      Event s c (presentRequest p r s)
  | waitEnds {p u} : endWait p s = some u → Event s (.intakeWaitEnd p) u
  | sent {c p tag rr} : requestsBrought c s = [] → nextResponse p tag s = some rr → Event s c (sendResponse p rr s)
  | granted {pick q i} : s.dn.inFlight.length < dnLimit → requesterIssue pick q s = some i →
      Event s (.arbiterGrant pick) (grant q i)
  | fragmentAnswer {p tag i a} : Event s (.fragmentAnswer a) (fragmentAnswered (p, tag) i a (popInFlight s))
  | forwardedAnswer {p r a} : Event s (.forwardedAnswer a) (makeReady p (forwardedResponse r a) (popInFlight s))
  | rowReadAnswer {b r a} : bufferOf b s.engine = .reading r →
      Event s (.rowReadAnswer a) (rowReadAnswered b r a (popInFlight s))
  | rowWriteAnswer {b w a} : bufferOf b s.engine = .writing w →
      Event s (.rowWriteAnswer a) (rowWriteAnswered b w a (popInFlight s))
  | discardedAnswer {f a} : Event s (.discardedAnswer a) (dropAnswer f (popInFlight s))
  | loaderReadAnswer {l a} : s.cmd.load = some l → Event s (.loaderReadAnswer a) (loadAnswer l a (popInFlight s))
  | recordWriteAnswer {w a} : Event s (.recordWriteAnswer a) (recordAnswered w a (popInFlight s))
  | responseWriteAnswer {a} : Event s (.responseWriteAnswer a) (responseAnswered a (popInFlight s))
  | countsWriteAnswer {f a} : s.notice.countsBusy = some f →
      Event s (.countsWriteAnswer a) (countsAnswered f a (popInFlight s))
  | pollRound : noneDueBefore s.monitor.roundDue s = true →
      Event s .pollRound (roundFallsDue (clockAt s.monitor.roundDue s))
  | sensorReply {start f q} : s.monitor.poll = some q → noneDueBefore (pollEndTime q start) s = true →
      Event s (.sensorReply start f)
        (continueRound q.hinge (judgePoll q.hinge start f (clockAt (pollEndTime q start) s)))
  | replyTimeout {q} : s.monitor.poll = some q → noneDueBefore (q.frameEnd + replyLimit) s = true →
      Event s .replyTimeout (continueRound q.hinge (pollMiss q.hinge (clockAt (q.frameEnd + replyLimit) s)))
  | settleTimer {n due} : s.monitor.settle = .running n due → noneDueBefore due s = true →
      Event s .settleTimerExpiry (settleExpires n (clockAt due s))
  | fallbackTimer {due} : s.monitor.fallback = .running due → noneDueBefore due s = true →
      Event s .fallbackTimerExpiry (fallbackExpires (clockAt due s))
  | frameStart {elapsed} : noneDueBefore (s.now + elapsed) s = true →
      Event s (.frameStart elapsed) (frameStarts (clockAt (s.now + elapsed) s))
  | lossTimer {due} : s.frame.lossTimer = some due → noneDueBefore due s = true →
      Event s .lossTimerExpiry (lossTimerExpires (clockAt due s))
  | bootHead {bytes} : Event s (.bootHeadReadEnd bytes) (headReadEnds bytes s)
  | bootBody {bytes} : Event s (.bootBodyReadEnd bytes) (bodyReadEnds bytes s)
  | bootCheck {first} : s.boot.state = .check → Event s (.bootCheckEnd first) (checkEnds first s)

/-- R13: what a requester leaves of the part when it issues: `Issued s t`. -/
inductive Issued (s : State) : State → Prop
  | forward (p) : Issued s (popPath p s)
  | fragment {p tag c} (n : Nat) (f : Fragment → Fragment) : contextOf (p, tag) s = some c →
      Issued s (putContext (setFragment c n f) s)
  | lastFragment {p tag c} (n : Nat) (f : Fragment → Fragment) : contextOf (p, tag) s = some c →
      Issued s (popPath p (putContext (setFragment c n f) s))
  | row (b x) : Issued s (onEngine (fun e => setBuffer b x { e with lastIssuer := b }) s)
  | load (l) : Issued s (onCmd (fun c => { c with load := some l }) s)
  | record {f : NoticeUnit → NoticeUnit} : (f s.notice).counters = s.notice.counters → (f s.notice).set = s.notice.set →
      (f s.notice).readyQueue = s.notice.readyQueue → Issued s (onNotice f s)

theorem requesterIssue_issued {pick : RecordWriter} {q : Requester} {i : Issue} {s : State}
    (h : requesterIssue pick q s = some i) : Issued s i.after := by
  cases q with
  | path p =>
    simp only [requesterIssue, pathIssue] at h
    repeat' split at h
    all_goals cases h
    all_goals dsimp only
    · exact .forward p
    · exact .lastFragment _ _ ‹_›
    · exact .fragment _ _ ‹_›
  | relocation =>
    simp only [requesterIssue, relocationIssue] at h
    repeat' split at h
    all_goals cases h
    all_goals exact .row _ _
  | loader =>
    simp only [requesterIssue, loaderIssue] at h
    repeat' split at h
    all_goals cases h
    exact .load _
  | notice =>
    simp only [requesterIssue, Option.bind_eq_some_iff] at h
    obtain ⟨w, -, h⟩ := h
    unfold recordIssue at h
    dsimp only at h
    repeat' split at h
    all_goals cases h
    all_goals
      dsimp only
      refine .record ?_ ?_ ?_ <;> rfl

/-- R18, log 8: a command that takes place does so while RESET_N is not asserted, on its own terms. -/
theorem next_of_whileReleased {s t : State} {k : Host.Outcome State Fault Refusal} (h : whileReleased s k = .next t) :
    k = .next t := ((whileReleased_next s).1 h).2

/-- What a command's event leaves, once the outputs have settled. -/
theorem happens_event {c : Instr} {s u t : State} (e : Event s c u) (h : happens s u = .next t) :
    ∃ u, Event s c u ∧ t = settleOutputs s u :=
  ⟨u, e, ((happens_eq_next u s t).1 h).symm⟩

/-- R6: a presentation that takes place is one of a presentable request in an EMPTY place. -/
theorem present_event {p : Port} {r : Request} {s t : State} {c : Instr} (hc : requestsBrought c s = [r])
    (h : present p r s = .next t) : ∃ u, Event s c u ∧ t = settleOutputs s u := by
  replace h := next_of_whileReleased h
  split at h
  · cases h
  · rename_i hr
    split at h
    · rename_i hp
      exact happens_event (.presented hc hp (by simpa using hr)) h
    · cases h

/-- Log 3: a timed event that takes place finds nothing due before it. -/
theorem atTime_event {time : Nat} {event : State → State} {s t : State} {c : Instr}
    (h : atTime time s event = .next t) (k : noneDueBefore time s = true → Event s c (event (clockAt time s))) :
    ∃ u, Event s c u ∧ t = settleOutputs s u := by
  obtain ⟨hd, rfl⟩ := (atTime_next s).1 h
  exact ⟨_, k hd, rfl⟩

/-- Log 3: so does one that falls at its time exactly. -/
theorem exactlyAt_event {time : Nat} {event : State → State} {s t : State} {c : Instr}
    (h : exactlyAt time s event = .next t) (k : noneDueBefore time s = true → Event s c (event (clockAt time s))) :
    ∃ u, Event s c u ∧ t = settleOutputs s u := by
  unfold exactlyAt at h
  split at h
  · exact atTime_event h k
  · cases h

/-- R15: an answer that is examined leaves what its meaning `k` makes of the oldest request in flight. -/
theorem withAnswer_event {a : Answer} {k : InFlight → Option State} {s t : State} {c : Instr}
    (h : whileReleased s (withAnswer a s k) = .next t) (e : ∀ f u, k f = some u → Event s c u) :
    ∃ u, Event s c u ∧ t = settleOutputs s u := by
  obtain ⟨f, _, u, -, -, -, hk, rfl⟩ := (withAnswer_next s).1 (next_of_whileReleased h)
  exact ⟨u, e f u hk, rfl⟩

/-- A command that takes place, other than the two of RESET_N, is an event, at whose end the outputs settle. -/
theorem exec_event {c : Instr} {s t : State} (h : exec c s = .next t) :
    c = .resetNAssert ∨ c = .resetNRelease ∨ ∃ u, Event s c u ∧ t = settleOutputs s u := by
  cases c with
  | resetNAssert => exact .inl rfl
  | resetNRelease => exact .inr (.inl rfl)
  | requestPresent p r => exact .inr (.inr (present_event rfl h))
  | publish | force | release | report | restart => exact .inr (.inr (present_event rfl h))
  | systemWindowWrite p r | tableAreaWrite p r | noticeRecordWrite p r | badCommand p r =>
    refine .inr (.inr ?_)
    simp only [exec, execSystemWindowWrite, execTableAreaWrite, execNoticeRecordWrite, execBadCommand] at h
    split at h
    · exact present_event rfl h
    · cases h
  | noticeRecordRead p tag =>
    replace h := next_of_whileReleased h
    cases hr : nextResponse p tag s with
    | none => simp [hr] at h
    | some rr =>
      simp only [hr] at h
      split at h
      · exact .inr (.inr (happens_event (.sent rfl hr) h))
      · cases h
  | responseSend p tag =>
    replace h := next_of_whileReleased h
    cases hr : nextResponse p tag s with
    | none => simp [hr] at h
    | some rr =>
      simp only [hr] at h
      exact .inr (.inr (happens_event (.sent rfl hr) h))
  | intakeWaitEnd p =>
    replace h := next_of_whileReleased h
    cases hw : endWait p s with
    | none => simp [hw] at h
    | some u =>
      simp only [hw] at h
      exact .inr (.inr (happens_event (.waitEnds hw) h))
  | arbiterGrant pick =>
    replace h := next_of_whileReleased h
    split at h
    · rename_i hl
      cases hq : nextRequester s with
      | none => simp [hq] at h
      | some q =>
        cases hi : requesterIssue pick q s with
        | none => simp [hq, hi] at h
        | some i =>
          simp only [hq, hi] at h
          exact .inr (.inr (happens_event (.granted hl hi) h))
    · cases h
  | fragmentAnswer a =>
    refine .inr (.inr (withAnswer_event h fun f u hk => ?_))
    split at hk <;> cases hk
    exact .fragmentAnswer
  | forwardedAnswer a =>
    refine .inr (.inr (withAnswer_event h fun f u hk => ?_))
    split at hk <;> cases hk
    exact .forwardedAnswer
  | rowReadAnswer a =>
    refine .inr (.inr (withAnswer_event h fun f u hk => ?_))
    split at hk
    · split at hk <;> cases hk
      exact .rowReadAnswer ‹_›
    · cases hk
  | rowWriteAnswer a =>
    refine .inr (.inr (withAnswer_event h fun f u hk => ?_))
    split at hk
    · split at hk <;> cases hk
      exact .rowWriteAnswer ‹_›
    · cases hk
  | discardedAnswer a =>
    replace h := next_of_whileReleased h
    split at h
    · cases h
    · split at h
      · exact .inr (.inr (happens_event (.discardedAnswer) h))
      · cases h
  | loaderReadAnswer a =>
    refine .inr (.inr (withAnswer_event h fun f u hk => ?_))
    split at hk <;> cases hk
    exact .loaderReadAnswer ‹_›
  | recordWriteAnswer a =>
    refine .inr (.inr (withAnswer_event h fun f u hk => ?_))
    split at hk <;> cases hk <;> exact .recordWriteAnswer
  | responseWriteAnswer a =>
    refine .inr (.inr (withAnswer_event h fun f u hk => ?_))
    split at hk <;> cases hk
    exact .responseWriteAnswer
  | countsWriteAnswer a =>
    refine .inr (.inr (withAnswer_event h fun f u hk => ?_))
    split at hk <;> cases hk
    exact .countsWriteAnswer ‹_›
  | pollRound => exact .inr (.inr (atTime_event (next_of_whileReleased h) .pollRound))
  | sensorReply start f =>
    replace h := next_of_whileReleased h
    split at h
    · cases h
    · exact .inr (.inr (exactlyAt_event h (.sensorReply ‹_›)))
  | replyTimeout =>
    replace h := next_of_whileReleased h
    split at h
    · cases h
    · exact .inr (.inr (exactlyAt_event h (.replyTimeout ‹_›)))
  | settleTimerExpiry =>
    replace h := next_of_whileReleased h
    split at h
    · exact .inr (.inr (atTime_event h (.settleTimer ‹_›)))
    · cases h
  | fallbackTimerExpiry =>
    replace h := next_of_whileReleased h
    split at h
    · exact .inr (.inr (atTime_event h (.fallbackTimer ‹_›)))
    · cases h
  | frameStart elapsed => exact .inr (.inr (atTime_event (next_of_whileReleased h) .frameStart))
  | lossTimerExpiry =>
    replace h := next_of_whileReleased h
    split at h
    · exact .inr (.inr (atTime_event h (.lossTimer ‹_›)))
    · cases h
  | bootHeadReadEnd bytes =>
    replace h := next_of_whileReleased h
    split at h
    · exact .inr (.inr (happens_event (.bootHead) h))
    · cases h
  | bootBodyReadEnd bytes =>
    replace h := next_of_whileReleased h
    split at h
    · cases h
    · split at h
      · exact .inr (.inr (happens_event (.bootBody) h))
      · cases h
  | bootCheckEnd first =>
    replace h := next_of_whileReleased h
    split at h
    · exact .inr (.inr (happens_event (.bootCheck ‹_›) h))
    · cases h

end Sys2Proof.Machine
end

section
/-!
The bounds of the counters, hinges, queues and the clock through every operation (R14, R82, R84, R142, R145, R168,
log 3).
-/
namespace Sys2Proof.Machine

/-- From `s` to `t` each of the four bounds is kept, on its own. -/
structure KeepsBounds (s t : State) : Prop where
  counters : CountersRight s → CountersRight t
  hinges : HingesRight s → HingesRight t
  queues : QueuesRight s → QueuesRight t
  clock : ClockRight s → ClockRight t

theorem KeepsBounds.refl (s : State) : KeepsBounds s s := ⟨id, id, id, id⟩

/-- The last operation comes first, so that a chain reads like the operations it is about. -/
theorem KeepsBounds.after {s t u : State} (g : KeepsBounds t u) (h : KeepsBounds s t) : KeepsBounds s u :=
  ⟨g.1 ∘ h.1, g.2 ∘ h.2, g.3 ∘ h.3, g.4 ∘ h.4⟩

/-- The due times that run depend on the monitor and the frame timing monitor alone. -/
theorem runningDues_congr {s t : State} (hm : t.monitor = s.monitor) (hf : t.frame = s.frame) :
    runningDues t = runningDues s := by simp only [runningDues, hm, hf]

/-- Where time and both monitors stand, the hinges and the clock stay right. -/
theorem KeepsBounds.of_still {s t : State} (hm : t.monitor = s.monitor) (hf : t.frame = s.frame) (hn : t.now = s.now)
    (hc : CountersRight s → CountersRight t) (hq : QueuesRight s → QueuesRight t) : KeepsBounds s t where
  counters := hc
  hinges h := by unfold HingesRight; rw [hm]; exact h
  queues := hq
  clock h := by unfold ClockRight; rw [runningDues_congr hm hf, hn]; exact h

/-- The bounds of the queues depend on DN and the two queues alone. -/
theorem QueuesRight.congr {s t : State} (h : QueuesRight s) (hd : t.dn = s.dn) (hh : t.engine.hold = s.engine.hold)
    (hp : t.engine.promotion = s.engine.promotion) : QueuesRight t := by
  unfold QueuesRight; rw [hd, hh, hp]; exact h

/-- The counters alone decide whether they are right. -/
theorem CountersRight.congr {s t : State} (h : CountersRight s) (hc : t.notice.counters = s.notice.counters) :
    CountersRight t := by
  unfold CountersRight; rw [hc]; exact h

/-- Nothing that a bound speaks of has changed. -/
theorem KeepsBounds.of_eq {s t : State} (hm : t.monitor = s.monitor) (hf : t.frame = s.frame) (hn : t.now = s.now)
    (hd : t.dn = s.dn) (hh : t.engine.hold = s.engine.hold) (hp : t.engine.promotion = s.engine.promotion)
    (hc : t.notice.counters = s.notice.counters) : KeepsBounds s t :=
  .of_still hm hf hn (·.congr hc) (·.congr hd hh hp)

/-- The monitors may start timers and polls that fall due from now on; the rest of what the bounds speak of stands. -/
theorem KeepsBounds.of_dues {s t : State} (hh : HingesRight s → HingesRight t)
    (hr : ∀ d ∈ runningDues t, d ∈ runningDues s ∨ s.now ≤ d) (hn : t.now = s.now) (hd : t.dn = s.dn)
    (he : t.engine = s.engine) (hc : t.notice.counters = s.notice.counters) : KeepsBounds s t where
  counters h := h.congr hc
  hinges := hh
  queues h := h.congr hd (by rw [he]) (by rw [he])
  clock h d hdue := by
    rw [hn]
    exact (hr d hdue).elim (h d) id

theorem counterRight_zero : CounterRight Counter.zero := by unfold CounterRight; decide

/-! ## Flags -/

theorem countEvent_bounds (i : CounterId) (n : Nat) (s : State) : KeepsBounds s (countEvent i n s) :=
  .of_still rfl rfl rfl (fun h => countIn_right i n h) id

theorem raise_bounds (k : NoticeKind) (s : State) : KeepsBounds s (raise k s) :=
  .of_eq rfl rfl rfl rfl rfl rfl (raise_counters k s)

theorem countMemoryError_bounds (s : State) : KeepsBounds s (countMemoryError s) :=
  (raise_bounds _ _).after <| countEvent_bounds _ _ s

theorem respond_bounds (q : Byte) (r : CommandResult) (d : BitVec 16) (s : State) : KeepsBounds s (respond q r d s) :=
  .of_eq rfl rfl rfl rfl rfl rfl rfl

/-- A change of the notice unit that keeps the counters, or sets them to 0. -/
theorem onNotice_bounds {f : NoticeUnit → NoticeUnit} {s : State}
    (h : (f s.notice).counters = s.notice.counters ∨ (f s.notice).counters = Counters.zero) :
    KeepsBounds s (onNotice f s) := by
  refine .of_still rfl rfl rfl (fun hs i => ?_) id
  rcases h with h | h <;> simp only [onNotice_notice, h]
  · exact hs i
  · rw [counterOf_zero]; exact counterRight_zero

theorem settleOutputs_bounds (b s : State) : KeepsBounds s (settleOutputs b s) :=
  .of_eq rfl rfl rfl rfl rfl rfl (settleOutputs_counters s b)

/-! ## Relocation -/

/-- A change of the engine that keeps its two queues. -/
theorem onEngine_bounds {f : Engine → Engine} {s : State} (hh : (f s.engine).hold = s.engine.hold)
    (hp : (f s.engine).promotion = s.engine.promotion) : KeepsBounds s (onEngine f s) :=
  .of_eq rfl rfl rfl rfl hh hp rfl

theorem onCtrl_bounds (f : Controller → Controller) (s : State) : KeepsBounds s (onCtrl f s) :=
  .of_eq rfl rfl rfl rfl rfl rfl rfl

theorem onCmd_bounds (f : CommandBlock → CommandBlock) (s : State) : KeepsBounds s (onCmd f s) :=
  .of_eq rfl rfl rfl rfl rfl rfl rfl

theorem setPort_bounds (p : Port) (q : PortState) (s : State) : KeepsBounds s (setPort p q s) := by
  apply KeepsBounds.of_eq <;> simp

theorem promoteTile_bounds (t : Tile) (s : State) : KeepsBounds s (promoteTile t s) := by
  unfold promoteTile
  split
  · rename_i h
    simp only [Bool.and_eq_true, Bool.not_eq_true', decide_eq_true_eq, List.contains_eq_mem,
      decide_eq_false_iff_not] at h
    obtain ⟨⟨-, hnew⟩, hroom⟩ := h
    refine (countEvent_bounds _ _ _).after (.of_still rfl rfl rfl id fun ⟨hd, hh, _, hn⟩ => ⟨hd, hh, ?_, ?_⟩)
    · simp only [onEngine_engine, List.length_append, List.length_singleton]; omega
    · simpa [List.nodup_append] using ⟨hn, fun a ha e => hnew (e ▸ ha)⟩
  · exact .refl s

/-- A fold of steps that each keep the bounds keeps them. -/
theorem foldl_bounds {α : Type} {f : State → α → State} (h : ∀ s a, KeepsBounds s (f s a)) (l : List α) :
    ∀ s, KeepsBounds s (l.foldl f s) := by
  induction l with
  | nil => exact .refl
  | cons a l ih => exact fun s => (ih _).after (h s a)

theorem promoteTiles_bounds (ts : List BankTile) (s : State) : KeepsBounds s (promoteTiles ts s) := by
  unfold promoteTiles
  refine foldl_bounds (fun u t => ?_) ts s
  exact promoteTile_bounds t.tile u

theorem promoteHeld_bounds (s : State) : KeepsBounds s (promoteHeld s) := by
  unfold promoteHeld
  refine foldl_bounds (fun t key => ?_) _ s
  split
  · exact .refl t
  · exact promoteTiles_bounds _ t

theorem startTile_bounds (b : BufferId) (t : Tile) (s : State) : KeepsBounds s (startTile b t s) := by
  unfold startTile
  split
  · exact onEngine_bounds (by simp) (by simp)
  · exact onEngine_bounds (by simp) (by simp)
  · exact .refl s

theorem takeTile_bounds (b : BufferId) (s : State) : KeepsBounds s (takeTile b s) := by
  unfold takeTile
  split
  · split
    · rename_i t ht
      refine (promoteHeld_bounds _).after <| (startTile_bounds b t _).after <|
        .of_still rfl rfl rfl id fun ⟨hd, hh, hp, hn⟩ => ⟨hd, hh, ?_, hn.erase t⟩
      exact Nat.le_trans List.erase_sublist.length_le hp
    · split
      · exact .refl s
      · split
        · exact (startTile_bounds b _ _).after <| onEngine_bounds rfl rfl
        · exact onEngine_bounds rfl rfl
  · exact .refl s

theorem takeTiles_bounds (s : State) : KeepsBounds s (takeTiles s) :=
  (takeTile_bounds _ _).after <| takeTile_bounds _ s

/-- R142: a request is held only while fewer than 16 are. -/
theorem enterHold_bounds {key : Key} {ts : List BankTile} {s : State} (h : s.engine.hold.length < 16) :
    KeepsBounds s (enterHold key ts s) := by
  refine (takeTiles_bounds _).after <| (promoteTiles_bounds _ _).after <| (countEvent_bounds _ _ _).after <|
    .of_still rfl rfl rfl id fun ⟨hd, _, hp⟩ => ⟨hd, ?_, hp⟩
  simp only [onEngine_engine, List.length_append, List.length_singleton]; omega

theorem joinPath_bounds (p : Port) (e : PathEntry) (s : State) :
    KeepsBounds s (joinPath p e s) := setPort_bounds _ _ _

theorem releaseHeld_bounds (s : State) : KeepsBounds s (releaseHeld s) := by
  have joined : ∀ (l : List Key) u, KeepsBounds u (l.foldl (fun t key => joinPath key.1 (.surface key.2) t) u) := by
    intro l u
    refine foldl_bounds (fun t key => ?_) l u
    exact joinPath_bounds key.1 (.surface key.2) t
  refine (joined _ _).after <| .of_still rfl rfl rfl id fun ⟨hd, hh, hp⟩ => ⟨hd, ?_, hp⟩
  exact Nat.le_trans (List.length_filter_le _ _) hh

/-! ## Transition -/

theorem beginTransition_bounds (d : DrainKind) (r : RecordCopy) (o : Option RecordCopy) (s : State) :
    KeepsBounds s (beginTransition d r o s) :=
  (takeTiles_bounds _).after <| (raise_bounds _ _).after <| (onEngine_bounds rfl rfl).after <| onCtrl_bounds _ s

theorem commitLayout_bounds (n : Nat) (s : State) : KeepsBounds s (commitLayout n s) := by
  unfold commitLayout
  repeat' split
  · exact .refl s
  · exact .refl s
  · exact beginTransition_bounds _ _ _ s

theorem resolveSlot_bounds (s : State) : KeepsBounds s (resolveSlot s) := by
  unfold resolveSlot
  split
  · exact .refl s
  · exact (commitLayout_bounds _ _).after <| onCtrl_bounds _ s

theorem flip_bounds (s : State) : KeepsBounds s (flip s) :=
  (resolveSlot_bounds _).after <| (raise_bounds _ _).after <| (countEvent_bounds _ _ _).after <| onCtrl_bounds _ s

theorem completionTest_bounds (s : State) : KeepsBounds s (completionTest s) := by
  rw [completionTest_spec]
  repeat' split
  · exact (flip_bounds _).after <| onCtrl_bounds (fun c => { c with state := .flipWait }) s
  · exact onCtrl_bounds (fun c => { c with state := .flipWait }) s
  · exact .refl s

theorem enterRelocating_bounds (s : State) : KeepsBounds s (enterRelocating s) :=
  (completionTest_bounds _).after <| (takeTiles_bounds _).after <| (onEngine_bounds rfl rfl).after <|
    onCtrl_bounds _ s

theorem leaveOldWrites_bounds (k : Key) (s : State) : KeepsBounds s (leaveOldWrites k s) := by
  unfold leaveOldWrites
  dsimp only
  repeat' split
  · exact (enterRelocating_bounds _).after <| onCtrl_bounds _ s
  · exact onCtrl_bounds _ s
  · exact .refl s

theorem slotRequest_bounds (c : Option Nat) (n : Nat) (s : State) : KeepsBounds s (slotRequest c n s) := by
  unfold slotRequest
  repeat' split
  · exact onCtrl_bounds _ s
  · exact onCtrl_bounds _ s
  · exact .refl s
  · exact (countEvent_bounds _ _ _).after <| onCtrl_bounds _ s

theorem layoutRequest_bounds (n : Nat) (s : State) : KeepsBounds s (layoutRequest n s) := by
  unfold layoutRequest
  repeat' split
  · exact .refl s
  · exact slotRequest_bounds _ n s
  · exact .refl s
  · exact commitLayout_bounds n s
  all_goals exact slotRequest_bounds _ n s

theorem endLoadReplaced_bounds (t : Table) (s : State) : KeepsBounds s (endLoadReplaced t s) := by
  refine .after ?_ (onCtrl_bounds (fun c => { c with loadHold := false }) s)
  unfold endLoadReplaced
  dsimp only
  split
  · exact beginTransition_bounds _ _ _ _
  · exact resolveSlot_bounds _

theorem endLoadKept_bounds (s : State) : KeepsBounds s (endLoadKept s) :=
  (resolveSlot_bounds _).after <| onCtrl_bounds _ s

theorem bootCommit_bounds (s : State) : KeepsBounds s (bootCommit s) := beginTransition_bounds _ _ _ s

theorem restartCommit_bounds (s : State) : KeepsBounds s (restartCommit s) :=
  (beginTransition_bounds _ _ _ _).after <| onCtrl_bounds
    (fun c => { c with slot := none, loadHold := false, active := none, target := none, old := none }) s

/-! ## Sending and aborting -/

theorem reportForwarded_bounds (p : Port) (r : Request) (ds : List Pixel) (s : State) :
    KeepsBounds s (reportForwarded p r ds s) := by
  unfold reportForwarded
  repeat' split
  · exact onNotice_bounds (.inl rfl)
  · exact onNotice_bounds (.inl (by rw [(acknowledgeWord_spec _ _).1]))
  · exact .refl s

theorem reportSent_bounds (p : Port) (rr : ReadyResponse) (s : State) : KeepsBounds s (reportSent p rr s) := by
  unfold reportSent
  split
  · exact reportForwarded_bounds _ _ _ s
  · exact .refl s

theorem abortAfterTag_bounds (p : Port) (tag : Tag) (s : State) : KeepsBounds s (abortAfterTag p tag s) := by
  apply KeepsBounds.of_eq <;> simp

theorem dropContext_bounds (key : Key) (s : State) :
    KeepsBounds s (dropContext key s) := .of_eq rfl rfl rfl rfl rfl rfl rfl

theorem sendResponse_bounds (p : Port) (rr : ReadyResponse) (s : State) : KeepsBounds s (sendResponse p rr s) :=
  (abortAfterTag_bounds _ _ _).after <| (leaveOldWrites_bounds _ _).after <| (reportSent_bounds _ _ _).after <|
    (dropContext_bounds _ _).after <| setPort_bounds _ _ s

theorem abortWaiting_bounds (s : State) : KeepsBounds s (abortWaiting s) := by
  refine .of_still (by simp) (by simp) (by simp) (·.congr (by simp)) fun ⟨hd, _, hp⟩ => ⟨by simpa using hd, ?_, ?_⟩
  · simp [abortWaiting]
  · simpa [abortWaiting] using hp

/-! ## The posture monitor -/

/-- R81: an angle taken lies within 0 to 720. -/
theorem clampAngle_le (a : Nat) : clampAngle a ≤ 720 := Nat.min_le_left _ _

/-- R84: the mean of angles within a bound lies within it. -/
theorem meanAngle_le {l : List Nat} {m : Nat} (h : ∀ a ∈ l, a ≤ m) : meanAngle l ≤ m :=
  Nat.div_le_of_le_mul (by simpa using List.sum_le_card_nsmul l m h)

/-- R84: a history takes the new angle, keeps at most four, and loses none while it has room. -/
theorem joinHistory_bounds {l : List Nat} {a : Nat} (hl : l.length ≤ 4) (ha : a ≤ 720) (h : ∀ x ∈ l, x ≤ 720) :
    (joinHistory l a).length = min 4 (l.length + 1) ∧ ∀ x ∈ joinHistory l a, x ≤ 720 := by
  rw [joinHistory_eq]
  refine ⟨by simp; omega, fun x hx => ?_⟩
  have hx := List.mem_of_mem_drop hx
  simp only [List.mem_append, List.mem_singleton] at hx
  rcases hx with hx | rfl
  · exact h x hx
  · exact ha

theorem hingeValid_right {a : Nat} {g : Hinge} (h : HingeRight g) (ha : a ≤ 720) : HingeRight (hingeValid a g) := by
  obtain ⟨hf, hl, hx, hm, hpres, hother⟩ := h
  obtain ⟨jl, jx⟩ := joinHistory_bounds hl ha hx
  have hmean := meanAngle_le jx
  unfold hingeValid
  cases hs : g.state with
  | present =>
    obtain ⟨hv, h4⟩ := hpres hs
    exact ⟨hmean, by dsimp only; omega, jx, Nat.zero_le _, fun _ => ⟨hv, by dsimp only; omega⟩, fun hn => absurd rfl hn⟩
  | unknown | lost =>
    obtain ⟨hv, hvl⟩ := hother (by simp [hs])
    dsimp only
    split
    · refine ⟨hmean, by dsimp only; omega, jx, Nat.zero_le _, fun _ => ⟨Nat.le_refl _, by dsimp only; omega⟩, by simp⟩
    · refine ⟨hf, by dsimp only; omega, jx, hm, fun hp => ?_, fun _ => ⟨by dsimp only; omega, by dsimp only; omega⟩⟩
      cases hp

theorem hingeMiss_right {g : Hinge} (h : HingeRight g) : HingeRight (hingeMiss g) := by
  obtain ⟨hf, hl, hx, hm, hpres, hother⟩ := h
  unfold hingeMiss
  cases hs : g.state with
  | present =>
    dsimp only
    split
    · exact ⟨hf, by simp, by simp, Nat.le_refl _, by simp, by simp⟩
    · exact ⟨hf, hl, hx, by dsimp only; omega, fun _ => hpres hs, fun hn => absurd rfl hn⟩
  | unknown | lost => exact ⟨hf, hl, hx, hm, nofun, fun _ => ⟨by simp, by simp⟩⟩

theorem hingeRestart_right {g : Hinge} (h : HingeRight g) : HingeRight (hingeRestart g) :=
  ⟨h.1, by simp [hingeRestart], by simp [hingeRestart], by simp [hingeRestart], by simp [hingeRestart],
    by simp [hingeRestart]⟩

/-- Each hinge of a right pair is right. -/
theorem HingesRight.hinge {s : State} (h : HingesRight s) (k : HingeId) : HingeRight (hingeOf k s.monitor) := by
  cases k
  · exact h.1
  · exact h.2

theorem onMonitor_setHinge_bounds {k : HingeId} {g : Hinge} {s : State} (h : HingesRight s → HingeRight g) :
    KeepsBounds s (onMonitor (setHinge k g) s) := by
  refine .of_dues (fun hs => ?_) (fun d hd => .inl ?_) rfl rfl rfl rfl
  · cases k
    · exact ⟨h hs, hs.2⟩
    · exact ⟨hs.1, h hs⟩
  · cases k <;> exact hd

/-- A change of the monitor that keeps the hinges and starts nothing that falls due before now. -/
theorem onMonitor_bounds {f : Monitor → Monitor} {s : State} (h1 : (f s.monitor).h1 = s.monitor.h1)
    (h2 : (f s.monitor).h2 = s.monitor.h2)
    (hr : ∀ d ∈ runningDues (onMonitor f s), d ∈ runningDues s ∨ s.now ≤ d) : KeepsBounds s (onMonitor f s) :=
  .of_dues (fun h => by unfold HingesRight; rw [onMonitor_monitor, h1, h2]; exact h) hr rfl rfl rfl rfl

theorem noticeHinge_bounds (a b : HingeState) (s : State) : KeepsBounds s (noticeHinge a b s) := by
  unfold noticeHinge
  repeat' split
  · exact .refl s
  · exact raise_bounds _ s
  · exact .refl s

theorem mem_runningDues {s : State} {d : Nat} : d ∈ runningDues s ↔
    d = s.monitor.roundDue ∨ settleDue s.monitor.settle = some d ∨ fallbackDue s.monitor.fallback = some d ∨
      s.frame.lossTimer = some d ∨ s.monitor.poll.map pollDue = some d := by
  simp [runningDues]

theorem checkFallback_bounds (s : State) : KeepsBounds s (checkFallback s) := by
  unfold checkFallback
  repeat' split
  · refine onMonitor_bounds rfl rfl fun d hd => .inl ?_
    simp only [mem_runningDues, onMonitor_monitor, onMonitor_frame, fallbackDue] at hd ⊢
    tauto
  · exact .refl s
  · refine onMonitor_bounds rfl rfl fun d hd => ?_
    simp only [mem_runningDues, onMonitor_monitor, onMonitor_frame, fallbackDue, Option.some.injEq] at hd ⊢
    rcases hd with h | h | h | h | h <;> simp [h]
    omega
  · exact .refl s

theorem startSettle_bounds (t : Table) (c : Nat) (s : State) : KeepsBounds s (startSettle t c s) := by
  unfold startSettle
  split
  · exact .refl s
  · refine onMonitor_bounds rfl rfl fun d hd => ?_
    simp only [mem_runningDues, onMonitor_monitor, onMonitor_frame, settleDue, Option.some.injEq] at hd ⊢
    rcases hd with h | h | h | h | h <;> simp [h]
    omega

/-- Stopping the settle timer, or letting it expire, starts nothing. -/
theorem settle_stops_bounds {f : Monitor → Monitor} {s : State} (x : SettleTimer) (hx : settleDue x = none)
    (hf : ∃ c o, f s.monitor = { s.monitor with settle := x, candidate := c, override := o }) :
    KeepsBounds s (onMonitor f s) := by
  obtain ⟨c, o, hf⟩ := hf
  refine onMonitor_bounds (by rw [hf]) (by rw [hf]) fun d hd => .inl ?_
  simp only [mem_runningDues, onMonitor_monitor, onMonitor_frame, hf, hx] at hd ⊢
  tauto

/-- The candidate and the override are no timers. -/
theorem choice_bounds {f : Monitor → Monitor} {s : State}
    (hf : ∃ c o, f s.monitor = { s.monitor with candidate := c, override := o }) : KeepsBounds s (onMonitor f s) := by
  obtain ⟨c, o, hf⟩ := hf
  refine onMonitor_bounds (by rw [hf]) (by rw [hf]) fun d hd => .inl ?_
  simpa only [mem_runningDues, onMonitor_monitor, onMonitor_frame, hf] using hd

theorem settleOnMatch_bounds (t : Table) (i c : Option Nat) (s : State) : KeepsBounds s (settleOnMatch t i c s) := by
  unfold settleOnMatch
  repeat' split
  · exact settle_stops_bounds .idle rfl ⟨_, _, rfl⟩
  · exact settle_stops_bounds .idle rfl ⟨_, _, rfl⟩
  · exact .refl s
  · exact startSettle_bounds _ _ s

theorem runMatching_bounds (s : State) : KeepsBounds s (runMatching s) := by
  unfold runMatching
  repeat' split
  · exact .refl s
  · exact (settleOnMatch_bounds _ _ _ _).after <| choice_bounds ⟨_, _, rfl⟩
  · exact .refl s

theorem updateHinge_bounds {k : HingeId} {g : Hinge} {s : State} (h : HingesRight s → HingeRight g) :
    KeepsBounds s (updateHinge k g s) := by
  have key := (noticeHinge_bounds (hingeOf k s.monitor).state g.state _).after <| onMonitor_setHinge_bounds (k := k) h
  unfold updateHinge
  dsimp only
  split
  · exact key
  · exact (checkFallback_bounds _).after <| key

theorem pollMiss_bounds (k : HingeId) (s : State) : KeepsBounds s (pollMiss k s) :=
  (updateHinge_bounds fun h => hingeMiss_right (h.hinge k)).after <| countEvent_bounds _ _ s

theorem pollValid_bounds (k : HingeId) (a : Nat) (s : State) : KeepsBounds s (pollValid k a s) := by
  have clamps : KeepsBounds s (if 720 < a then countEvent .clamps 1 s else s) := by
    split
    · exact countEvent_bounds _ _ s
    · exact .refl s
  exact (runMatching_bounds _).after <|
    (updateHinge_bounds fun h => hingeValid_right (h.hinge k) (clampAngle_le a)).after <| clamps

theorem judgePoll_bounds (k : HingeId) (start : Nat) (f : ReplyFrame) (s : State) :
    KeepsBounds s (judgePoll k start f s) := by
  unfold judgePoll pollReply
  repeat' split
  · exact pollValid_bounds _ _ s
  · exact pollMiss_bounds k s
  · exact pollMiss_bounds k s

theorem beginPoll_bounds (k : HingeId) (s : State) : KeepsBounds s (beginPoll k s) := by
  refine .of_dues id (fun d hd => ?_) rfl rfl rfl rfl
  simp only [mem_runningDues, beginPoll, onMonitor_monitor, onMonitor_frame, Option.map_some, pollDue,
    Option.some.injEq] at hd ⊢
  rcases hd with h | h | h | h | h <;> simp [h]
  omega

theorem continueRound_bounds (k : HingeId) (s : State) : KeepsBounds s (continueRound k s) := by
  cases k with
  | h1 => exact beginPoll_bounds _ s
  | h2 =>
    refine .of_dues id (fun d hd => .inl ?_) rfl rfl rfl rfl
    simp only [mem_runningDues, continueRound, onMonitor_monitor, onMonitor_frame, Option.map_none] at hd ⊢
    tauto

theorem roundFallsDue_bounds (s : State) : KeepsBounds s (roundFallsDue s) := by
  unfold roundFallsDue
  split
  · refine ⟨id, id, id, fun h d hd => ?_⟩
    have hround := h _ (mem_runningDues.2 (.inl rfl))
    simp only [mem_runningDues, onMonitor_monitor, onMonitor_frame, onMonitor_now] at hd ⊢
    rcases hd with rfl | hd
    · omega
    · exact h d (mem_runningDues.2 (.inr hd))
  · refine (beginPoll_bounds _ _).after <| onMonitor_bounds rfl rfl fun d hd => ?_
    simp only [mem_runningDues, onMonitor_monitor, onMonitor_frame] at hd ⊢
    rcases hd with h | h | h | h | h <;> simp [h]

theorem settleExpires_bounds (n : Nat) (s : State) : KeepsBounds s (settleExpires n s) := by
  refine .after ?_ (settle_stops_bounds (f := fun m => { m with settle := .expired n }) (.expired n) rfl ⟨_, _, rfl⟩)
  unfold settleExpires
  dsimp only
  split
  · exact layoutRequest_bounds n _
  · exact .refl _

theorem fallbackExpires_bounds (s : State) : KeepsBounds s (fallbackExpires s) := by
  have spent : KeepsBounds s (onMonitor (fun m => { m with fallback := .spent }) s) := by
    refine onMonitor_bounds rfl rfl fun d hd => .inl ?_
    simp only [mem_runningDues, onMonitor_monitor, onMonitor_frame, fallbackDue] at hd ⊢
    tauto
  unfold fallbackExpires
  dsimp only
  repeat' split
  · exact spent
  · exact (raise_bounds _ _).after <| (layoutRequest_bounds 0 _).after <| spent
  · exact spent

theorem monitorForce_bounds (n : Nat) (s : State) : KeepsBounds s (monitorForce n s) :=
  (layoutRequest_bounds n _).after <| choice_bounds ⟨_, _, rfl⟩

theorem monitorRelease_bounds (s : State) : KeepsBounds s (monitorRelease s) := by
  refine .after ?_ (choice_bounds (f := fun m => { m with override := none }) ⟨_, _, rfl⟩)
  unfold monitorRelease
  dsimp only
  repeat' split
  · exact .refl _
  · exact startSettle_bounds _ _ _
  · exact .refl _

theorem monitorNewTable_bounds (t : Table) (s : State) : KeepsBounds s (monitorNewTable t s) :=
  settle_stops_bounds .idle rfl ⟨_, _, rfl⟩

theorem monitorRestart_bounds (s : State) : KeepsBounds s (monitorRestart s) := by
  refine .of_dues (fun h => ⟨hingeRestart_right h.1, hingeRestart_right h.2⟩) (fun d hd => ?_) rfl rfl rfl rfl
  simp only [mem_runningDues, monitorRestart, onMonitor_monitor, onMonitor_frame, settleDue] at hd ⊢
  rcases hd with h | h | h | h | h
  · exact .inl (.inl h)
  · cases h
  · right
    split at h <;> simp only [fallbackDue, reduceCtorEq, Option.some.injEq] at h
    omega
  · exact .inl (.inr (.inr (.inr (.inl h))))
  · exact .inl (.inr (.inr (.inr (.inr h))))

/-! ## The command block -/

theorem endLoadRejected_bounds (q : Byte) (r : CommandResult) (d : BitVec 16) (s : State) :
    KeepsBounds s (endLoadRejected q r d s) :=
  (respond_bounds _ _ _ _).after <| (raise_bounds _ _).after <| endLoadKept_bounds s

theorem endLoadTaken_bounds (q : Byte) (t : Table) (s : State) : KeepsBounds s (endLoadTaken q t s) :=
  (respond_bounds _ _ _ _).after <| (raise_bounds _ _).after <| (endLoadReplaced_bounds t _).after <|
    (monitorNewTable_bounds t _).after <| onCmd_bounds _ s

theorem endLoad_bounds (l : TableLoad) (s : State) : KeepsBounds s (endLoad l s) := by
  refine .after ?_ (onCmd_bounds (fun c => { c with load := none }) s)
  unfold endLoad
  dsimp only
  generalize (if l.awaitingHead = true then l.bytes else l.bytes.take l.length) = img
  repeat' split
  · exact endLoadRejected_bounds _ _ _ _
  · exact endLoadRejected_bounds _ _ _ _
  · exact endLoadRejected_bounds _ _ _ _
  · exact endLoadTaken_bounds _ _ _

theorem loadReadFails_bounds (l : TableLoad) (s : State) : KeepsBounds s (loadReadFails l s) := by
  unfold loadReadFails
  split
  · exact .refl s
  · exact countMemoryError_bounds s

theorem loadAnswer_bounds (l : TableLoad) (a : Answer) (s : State) : KeepsBounds s (loadAnswer l a s) := by
  unfold loadAnswer
  dsimp only
  repeat' split
  · exact (endLoad_bounds _ _).after <| loadReadFails_bounds _ s
  · exact (onCmd_bounds _ _).after <| loadReadFails_bounds _ s
  · exact endLoad_bounds _ s
  · exact onCmd_bounds _ s
  · exact endLoad_bounds _ s
  · exact onCmd_bounds _ s

theorem noticeRestart_bounds (s : State) : KeepsBounds s (onNotice noticeRestart s) :=
  onNotice_bounds (.inr (by unfold noticeRestart clearKinds; split <;> rfl))

theorem restartLoading_bounds (q : Byte) (s : State) : KeepsBounds s (restartLoading q s) :=
  (respond_bounds _ _ _ _).after <| (noticeRestart_bounds _).after <| (monitorRestart_bounds _).after <|
    abortWaiting_bounds s

theorem abandonLoad_bounds (s : State) : KeepsBounds s (abandonLoad s) := onCmd_bounds _ s

theorem discardReports_bounds (s : State) : KeepsBounds s (onNotice discardReports s) := onNotice_bounds (.inl rfl)

/-- R151: the promotion queue is emptied. -/
theorem engineRestart_bounds (s : State) : KeepsBounds s (onEngine engineRestart s) :=
  .of_still rfl rfl rfl id fun ⟨hd, hh, _⟩ => ⟨hd, hh, Nat.zero_le _, .nil⟩

theorem restartRunning_bounds (q : Byte) (s : State) : KeepsBounds s (restartRunning q s) :=
  (respond_bounds _ _ _ _).after <| (restartCommit_bounds _).after <| (noticeRestart_bounds _).after <|
    (monitorRestart_bounds _).after <| (engineRestart_bounds _).after <| (abortWaiting_bounds _).after <|
    (discardReports_bounds _).after <| abandonLoad_bounds s

theorem runCommand_bounds (q c : Byte) (a : BitVec 16) (s : State) : KeepsBounds s (runCommand q c a s) := by
  unfold runCommand takePublish takeForce takeRelease takeReport takeRestart
  repeat' split
  · exact respond_bounds _ _ _ s
  · exact (onCtrl_bounds _ _).after <| onCmd_bounds _ s
  · exact respond_bounds _ _ _ s
  · exact (respond_bounds _ _ _ _).after <| monitorForce_bounds _ s
  · exact respond_bounds _ _ _ s
  · exact respond_bounds _ _ _ s
  · exact (respond_bounds _ _ _ _).after <| monitorRelease_bounds s
  · exact respond_bounds _ _ _ s
  · exact onNotice_bounds (.inr rfl)
  · exact restartLoading_bounds q s
  · exact restartRunning_bounds q s
  · exact respond_bounds _ _ _ s

theorem reportCommandWord_bounds (w : Pixel) (s : State) : KeepsBounds s (reportCommandWord w s) := by
  unfold reportCommandWord
  split
  · exact .refl s
  · exact (runCommand_bounds _ _ _ _).after <| onCmd_bounds _ s

/-! ## The intake -/

theorem reportNoticeWrite_bounds (p : Port) (r : Request) (w : Pixel) (s : State) :
    KeepsBounds s (reportNoticeWrite p r w s) := by
  refine .after ?_ (onNotice_bounds (f := fun n => { n with hostWrites := n.hostWrites ++ [(p, r.tag)] }) (.inl rfl))
  unfold reportNoticeWrite
  dsimp only
  split
  · exact onNotice_bounds (.inl (by rw [(acknowledgeWord_spec _ _).1]))
  · exact .refl _

theorem reportWatched_bounds (p : Port) (r : Request) (s : State) : KeepsBounds s (reportWatched p r s) := by
  have notice : KeepsBounds s (match wordWrittenAt r noticeRecordAddress with
      | some w => reportNoticeWrite p r w s
      | none => s) := by
    split
    · exact reportNoticeWrite_bounds p r _ s
    · exact .refl s
  have table : ∀ x, KeepsBounds x (if writesTableArea r then reportTableWrite x else x) := fun x => by
    unfold reportTableWrite onLoad
    split
    · exact onCmd_bounds _ x
    · exact .refl x
  unfold reportWatched
  dsimp only
  split
  · exact (reportCommandWord_bounds _ _).after <| (table _).after <| notice
  · exact (table _).after <| notice

theorem routeSurface_bounds (p : Port) (r : Request) (c : Context) (s : State) :
    KeepsBounds s (routeSurface p r c s) := by
  unfold routeSurface
  repeat' split
  · exact setPort_bounds _ _ s
  · exact (enterHold_bounds (by simpa using ‹_›)).after <| setPort_bounds _ _ s
  · exact setPort_bounds _ _ s
  · exact (joinPath_bounds _ _ _).after <| setPort_bounds _ _ s

theorem routeRaw_bounds (p : Port) (r : Request) (s : State) : KeepsBounds s (routeRaw p r s) := by
  unfold routeRaw
  split
  · exact setPort_bounds _ _ s
  · exact (joinPath_bounds _ _ _).after <| setPort_bounds _ _ s

theorem acceptSurface_bounds (p : Port) (k : Nat) (r : Request) (s : State) :
    KeepsBounds s (acceptSurface p k r s) := by
  have counted : ∀ n c, KeepsBounds s
      (countEvent .clipped n { markTag p r.tag s with contexts := (markTag p r.tag s).contexts ++ c }) := fun n c =>
    (countEvent_bounds _ _ _).after <|
      KeepsBounds.after (t := markTag p r.tag s) (.of_eq rfl rfl rfl rfl rfl rfl rfl) (setPort_bounds _ _ s)
  unfold acceptSurface
  dsimp only
  split
  · exact (setPort_bounds _ _ _).after <| (setPort_bounds _ _ _).after <| counted _ _
  · exact (routeSurface_bounds _ _ _ _).after <| counted _ _

theorem refuseRequest_bounds (p : Port) (r : Request) (s : State) : KeepsBounds s (refuseRequest p r s) :=
  (setPort_bounds _ _ _).after <| (setPort_bounds _ _ _).after <| (setPort_bounds _ _ _).after <|
    countEvent_bounds _ _ s

theorem admitRequest_bounds (p : Port) (r : Request) (s : State) : KeepsBounds s (admitRequest p r s) := by
  unfold admitRequest acceptRequest
  repeat' split
  · exact refuseRequest_bounds p r s
  · exact setPort_bounds _ _ s
  · exact (routeRaw_bounds _ _ _).after <| setPort_bounds _ _ s
  · exact (reportWatched_bounds _ _ _).after <| (joinPath_bounds _ _ _).after <| (setPort_bounds _ _ _).after <|
      setPort_bounds _ _ s
  · exact acceptSurface_bounds p _ r s

theorem presentRequest_bounds (p : Port) (r : Request) (s : State) : KeepsBounds s (presentRequest p r s) := by
  unfold presentRequest
  split
  · exact setPort_bounds _ _ s
  · exact admitRequest_bounds p r s

theorem routeAgain_bounds (p : Port) (r : Request) (s : State) : KeepsBounds s (routeAgain p r s) := by
  unfold routeAgain
  split
  · exact routeSurface_bounds p r _ s
  · exact routeRaw_bounds p r s

theorem endWait_bounds {p : Port} {s u : State} (h : endWait p s = some u) : KeepsBounds s u := by
  unfold endWait at h
  repeat' split at h
  all_goals cases h
  · exact (setPort_bounds _ _ _).after <| (setPort_bounds _ _ _).after <| setPort_bounds _ _ s
  · exact admitRequest_bounds p _ s
  · exact admitRequest_bounds p _ s
  · exact routeAgain_bounds p _ s
  · exact routeAgain_bounds p _ s

theorem admitWaiting_bounds (p : Port) (s : State) : KeepsBounds s (admitWaiting p s) := by
  unfold admitWaiting
  split
  · exact admitRequest_bounds p _ s
  · exact .refl s

theorem onBoot_bounds (f : BootLoader → BootLoader) (s : State) : KeepsBounds s (onBoot f s) :=
  .of_eq rfl rfl rfl rfl rfl rfl rfl

theorem takeBootTable_bounds (s : State) : KeepsBounds s (takeBootTable s) := by
  unfold takeBootTable
  split
  · exact (raise_bounds _ _).after <| onCmd_bounds _ s
  · exact (raise_bounds _ _).after <| onCmd_bounds _ s

theorem checkEnds_bounds (p : Port) (s : State) : KeepsBounds s (checkEnds p s) := by
  unfold checkEnds
  exact (onBoot_bounds _ _).after <| (checkFallback_bounds _).after <| (admitWaiting_bounds _ _).after <|
    (admitWaiting_bounds _ _).after <| (bootCommit_bounds _).after <| takeBootTable_bounds s

/-! ## The downstream port -/

theorem popInFlight_bounds (s : State) : KeepsBounds s (popInFlight s) :=
  .of_still rfl rfl rfl id fun ⟨hd, h⟩ => ⟨Nat.le_trans (by simp [popInFlight]) hd, h⟩

theorem putContext_bounds (c : Context) (s : State) :
    KeepsBounds s (putContext c s) := .of_eq rfl rfl rfl rfl rfl rfl rfl

/-- R13: what a requester issues changes no bound of the part it leaves, and nothing of DN. -/
theorem Issued.bounds {s t : State} (h : Issued s t) : KeepsBounds s t ∧ t.dn = s.dn := by
  cases h with
  | forward p => exact ⟨setPort_bounds _ _ s, by simp⟩
  | fragment => exact ⟨putContext_bounds _ s, rfl⟩
  | lastFragment => exact ⟨(setPort_bounds _ _ _).after <| putContext_bounds _ s, by simp [putContext]⟩
  | row b x => exact ⟨onEngine_bounds (by simp) (by simp), rfl⟩
  | load => exact ⟨onCmd_bounds _ s, rfl⟩
  | record hc => exact ⟨onNotice_bounds (.inl hc), rfl⟩

/-- R14: a grant is made only while fewer than 48 are in flight. -/
theorem grant_bounds {q : Requester} {i : Issue} {s : State} (hl : s.dn.inFlight.length < dnLimit)
    (h : Issued s i.after) : KeepsBounds s (grant q i) := by
  obtain ⟨hk, hd⟩ := h.bounds
  refine KeepsBounds.after (t := i.after) (.of_still rfl rfl rfl id fun ⟨_, h⟩ => ⟨?_, h⟩) hk
  simp only [grant, List.length_append, List.length_singleton, hd]
  exact hl

theorem fragmentAnswered_bounds (key : Key) (i : Nat) (a : Answer) (s : State) :
    KeepsBounds s (fragmentAnswered key i a s) := by
  unfold fragmentAnswered
  dsimp only
  repeat' split
  · exact .refl s
  · exact (setPort_bounds _ _ _).after <| putContext_bounds _ s
  · exact putContext_bounds _ s

theorem onEngine_setBuffer_bounds (b : BufferId) (x : TileBuffer) (s : State) :
    KeepsBounds s (onEngine (setBuffer b x) s) := onEngine_bounds (by simp) (by simp)

theorem abandonMove_bounds (b : BufferId) (r : Reading) (s : State) : KeepsBounds s (abandonMove b r s) := by
  unfold abandonMove
  exact onEngine_bounds (by simp) (by simp)

theorem beginWriting_bounds (b : BufferId) (r : Reading) (s : State) : KeepsBounds s (beginWriting b r s) :=
  onEngine_bounds (by simp) (by simp)

theorem rowReadAnswered_bounds (b : BufferId) (r : Reading) (a : Answer) (s : State) :
    KeepsBounds s (rowReadAnswered b r a s) := by
  have counted : KeepsBounds s (if r.abandon = true then s else countMemoryError s) := by
    split
    · exact .refl s
    · exact countMemoryError_bounds s
  unfold rowReadAnswered
  dsimp only
  split
  · repeat' split
    · exact abandonMove_bounds _ _ _
    · exact onEngine_setBuffer_bounds _ _ _
    · exact beginWriting_bounds _ _ _
    · exact onEngine_setBuffer_bounds _ _ _
  · refine .after ?_ counted
    generalize (if r.abandon = true then s else countMemoryError s) = u
    split
    · exact abandonMove_bounds _ _ _
    · exact onEngine_setBuffer_bounds _ _ _

theorem endTile_bounds (b : BufferId) (w : Writing) (s : State) : KeepsBounds s (endTile b w s) :=
  (completionTest_bounds _).after <| (takeTiles_bounds _).after <| (releaseHeld_bounds _).after <|
    (onEngine_bounds (by rw [setBuffer_hold]) (by rw [setBuffer_promotion])).after <| countEvent_bounds _ _ s

theorem rowWriteAnswered_bounds (b : BufferId) (w : Writing) (a : Answer) (s : State) :
    KeepsBounds s (rowWriteAnswered b w a s) := by
  have counted : KeepsBounds s (if (answerOk a || w.failure) = true then s else countMemoryError s) := by
    split
    · exact .refl s
    · exact countMemoryError_bounds s
  unfold rowWriteAnswered
  refine .after ?_ counted
  generalize (if (answerOk a || w.failure) = true then s else countMemoryError s) = u
  dsimp only
  split
  · exact endTile_bounds _ _ _
  · exact onEngine_setBuffer_bounds _ _ _

theorem dropAnswer_bounds (f : InFlight) (s : State) : KeepsBounds s (dropAnswer f s) := by
  unfold dropAnswer discardAnswered
  repeat' split
  · exact .refl s
  · exact (completionTest_bounds _).after <| (takeTiles_bounds _).after <| onEngine_setBuffer_bounds _ _ s
  · exact onEngine_setBuffer_bounds _ _ s
  · exact .refl s
  · exact onCmd_bounds _ s
  · exact .refl s

/-- R16: the memory error of a record write is counted. -/
theorem failedWrite_bounds (a : Answer) (s : State) :
    KeepsBounds s (if answerOk a then s else countMemoryError s) := by
  split
  · exact .refl s
  · exact countMemoryError_bounds s

theorem recordAnswered_bounds (w : RecordWriter) (a : Answer) (s : State) : KeepsBounds s (recordAnswered w a s) :=
  (failedWrite_bounds a _).after <| onNotice_bounds (.inl (by cases w <;> rfl))

theorem responseAnswered_bounds (a : Answer) (s : State) : KeepsBounds s (responseAnswered a s) :=
  (raise_bounds _ _).after <| (failedWrite_bounds a _).after <| onNotice_bounds (.inl rfl)

theorem answerReports_bounds (rs : List Byte) (s : State) : KeepsBounds s (answerReports rs s) := by
  unfold answerReports
  exact foldl_bounds (fun t seq => respond_bounds seq .done 0 t) rs s

theorem countsAnswered_bounds (f : CountsFlight) (a : Answer) (s : State) : KeepsBounds s (countsAnswered f a s) := by
  refine .after ?_ (onNotice_bounds (f := fun n => { n with countsBusy := none }) (.inl rfl))
  unfold countsAnswered
  dsimp only
  split
  · exact .refl _
  · refine (answerReports_bounds _ _).after ?_
    split
    · exact raise_bounds _ _
    · exact countMemoryError_bounds _

/-! ## Frame timing and the boot loader -/

theorem takeAwaitedFlip_bounds (s : State) : KeepsBounds s (takeAwaitedFlip s) := by
  unfold takeAwaitedFlip
  split
  · exact flip_bounds s
  · exact .refl s

theorem countBoundary_bounds (s : State) : KeepsBounds s (countBoundary s) := by
  unfold countBoundary
  dsimp only
  repeat' split
  · exact onNotice_bounds (.inl rfl)
  · exact onNotice_bounds (.inr rfl)
  · exact onNotice_bounds (.inl rfl)

/-- A change of the frame timing monitor whose loss timer, where it runs, falls due from now on. -/
theorem onFrame_bounds {f : FrameMonitor → FrameMonitor} {s : State}
    (h : ∀ d, (f s.frame).lossTimer = some d → s.frame.lossTimer = some d ∨ s.now ≤ d) :
    KeepsBounds s (onFrame f s) := by
  refine .of_dues id (fun d hd => ?_) rfl rfl rfl rfl
  simp only [mem_runningDues, onFrame] at hd ⊢
  rcases hd with hd | hd | hd | hd | hd
  · exact .inl (.inl hd)
  · exact .inl (.inr (.inl hd))
  · exact .inl (.inr (.inr (.inl hd)))
  · exact (h d hd).imp_left fun hd => .inr (.inr (.inr (.inl hd)))
  · exact .inl (.inr (.inr (.inr (.inr hd))))

theorem checkReturn_bounds (s : State) : KeepsBounds s (checkReturn s) := by
  have present : KeepsBounds s (onFrame (fun f => { f with panel := .present }) s) := onFrame_bounds fun _ h => .inl h
  unfold checkReturn
  dsimp only
  repeat' split
  · exact (raise_bounds _ _).after <| present
  · exact present
  · exact .refl s
  · exact .refl s

theorem recordStart_bounds (s : State) : KeepsBounds s (recordStart s) := by
  refine onFrame_bounds fun d h => .inr ?_
  simp only [Option.some.injEq] at h
  omega

theorem frameStarts_bounds (s : State) : KeepsBounds s (frameStarts s) := by
  refine (recordStart_bounds _).after <| (checkReturn_bounds _).after <| (countBoundary_bounds _).after <|
    takeAwaitedFlip_bounds s

theorem lossTimerExpires_bounds (s : State) : KeepsBounds s (lossTimerExpires s) := by
  have stopped : KeepsBounds s (onFrame (fun f => { f with lossTimer := none }) s) := onFrame_bounds nofun
  unfold lossTimerExpires
  dsimp only
  split
  · exact stopped
  · exact (takeAwaitedFlip_bounds _).after <| (raise_bounds _ _).after <|
      (onFrame_bounds fun _ h => .inl h).after <| stopped

theorem headReadEnds_bounds (bs : List Byte) (s : State) : KeepsBounds s (headReadEnds bs s) := by
  unfold headReadEnds
  dsimp only
  split
  · exact .of_eq rfl rfl rfl rfl rfl rfl rfl
  · exact .of_eq rfl rfl rfl rfl rfl rfl rfl

/-- Log 3: the clock goes no further than what falls due. -/
theorem clockAt_bounds {time : Nat} {s : State} (h : noneDueBefore time s = true) :
    KeepsBounds s (clockAt time s) := by
  refine ⟨id, id, id, fun hs d hd => ?_⟩
  have hd : d ∈ runningDues s := hd
  simp only [noneDueBefore, List.all_eq_true, decide_eq_true_eq] at h
  exact Nat.max_le.2 ⟨hs d hd, h d hd⟩

/-! ## Every event -/

theorem Event.bounds {c : Instr} {s u : State} (e : Event s c u) : KeepsBounds s u := by
  cases e with
  | presented => exact presentRequest_bounds _ _ s
  | waitEnds h => exact endWait_bounds h
  | sent => exact sendResponse_bounds _ _ s
  | granted hl h => exact grant_bounds hl (requesterIssue_issued h)
  | fragmentAnswer => exact (fragmentAnswered_bounds _ _ _ _).after <| popInFlight_bounds s
  | forwardedAnswer => exact (setPort_bounds _ _ _).after <| popInFlight_bounds s
  | rowReadAnswer => exact (rowReadAnswered_bounds _ _ _ _).after <| popInFlight_bounds s
  | rowWriteAnswer => exact (rowWriteAnswered_bounds _ _ _ _).after <| popInFlight_bounds s
  | discardedAnswer => exact (dropAnswer_bounds _ _).after <| popInFlight_bounds s
  | loaderReadAnswer => exact (loadAnswer_bounds _ _ _).after <| popInFlight_bounds s
  | recordWriteAnswer => exact (recordAnswered_bounds _ _ _).after <| popInFlight_bounds s
  | responseWriteAnswer => exact (responseAnswered_bounds _ _).after <| popInFlight_bounds s
  | countsWriteAnswer => exact (countsAnswered_bounds _ _ _).after <| popInFlight_bounds s
  | pollRound h => exact (roundFallsDue_bounds _).after <| clockAt_bounds h
  | sensorReply _ h => exact (continueRound_bounds _ _).after <| (judgePoll_bounds _ _ _ _).after <| clockAt_bounds h
  | replyTimeout _ h => exact (continueRound_bounds _ _).after <| (pollMiss_bounds _ _).after <| clockAt_bounds h
  | settleTimer _ h => exact (settleExpires_bounds _ _).after <| clockAt_bounds h
  | fallbackTimer _ h => exact (fallbackExpires_bounds _).after <| clockAt_bounds h
  | frameStart h => exact (frameStarts_bounds _).after <| clockAt_bounds h
  | lossTimer _ h => exact (lossTimerExpires_bounds _).after <| clockAt_bounds h
  | bootHead => exact headReadEnds_bounds _ s
  | bootBody => exact .of_eq rfl rfl rfl rfl rfl rfl rfl
  | bootCheck => exact checkEnds_bounds _ s

end Sys2Proof.Machine
end

section
/-!
O53: the bounds and the order of the ready writes through every step.
-/
namespace Sys2Proof.Machine

/-! ## The order of the ready writes -/

theorem Issued.readyQueue {s t : State} (h : Issued s t) : t.notice.readyQueue = s.notice.readyQueue := by
  cases h with
  | forward p => simp
  | fragment => rfl
  | lastFragment => simp [putContext]
  | row => rfl
  | load => rfl
  | record _ _ hr => exact hr

/-- R19, R160: a request whose wait ends is the one that stood in the place. -/
theorem endWait_order {p : Port} {s u : State} (h : endWait p s = some u) :
    OrderKept (∃ q ∈ (placeRequest (portOf p s).place).toList, asksRestart q) s u := by
  unfold endWait at h
  repeat' split at h
  all_goals cases h
  · exact .of_eq (by simp)
  · exact (admitRequest_order s p _).mono fun hr => ⟨_, by simp [*, placeRequest], hr⟩
  · exact (admitRequest_order s p _).mono fun hr => ⟨_, by simp [*, placeRequest], hr⟩
  · exact .of_eq (by simp)
  · exact .of_eq (by simp)

/-- R160, R166: a response or counts write loses its place only to a RESTART word that the command brings (log 30). -/
theorem Event.order {c : Instr} {s u : State} (e : Event s c u) :
    OrderKept (∃ q ∈ requestsBrought c s, asksRestart q) s u := by
  cases e with
  | presented hc => exact (presentRequest_order s _ _).mono fun hr => ⟨_, by simp [hc], hr⟩
  | waitEnds h => exact endWait_order h
  | granted _ h => exact .of_eq (requesterIssue_issued h).readyQueue
  | bootCheck =>
    refine (checkEnds_order s _).mono fun ⟨q, r, hp, hr⟩ => ⟨r, ?_, hr⟩
    cases q <;> simp only [portOf] at hp <;> simp [requestsBrought, hp]
  | sensorReply =>
    refine .of_eq ?_
    simp only [judgePoll]
    split <;> simp [clockAt]
  | fragmentAnswer =>
    refine .of_eq ?_
    simp [popInFlight]
  | bootHead => exact .of_eq (by simp)
  | bootBody => exact .of_eq (by simp)
  | pollRound => exact .of_eq (by simp [clockAt])
  | replyTimeout | settleTimer | fallbackTimer | frameStart | lossTimer => exact .of_eq (by simp [clockAt])
  | sent => exact .of_eq (by simp)
  | forwardedAnswer | rowReadAnswer | rowWriteAnswer | discardedAnswer | loaderReadAnswer | recordWriteAnswer
  | responseWriteAnswer | countsWriteAnswer => exact .of_eq (by simp [popInFlight])

/-- What the statement says of the order: `stays` keeps its places, and the writers that became ready join the end. -/
def OrderMoves (R : Prop) (s t : State) : Prop :=
  ∃ (stays : RecordWriter → Bool) (fresh : List (List RecordWriter)),
    t.notice.readyQueue = (s.notice.readyQueue.map (·.filter stays)).filter (fun g => !g.isEmpty) ++ fresh ∧
    fresh.length ≤ 1 ∧ (∀ w, stays w = true → writerReady t.notice w = true) ∧
    ∀ w, writerReady t.notice w = true → stays w = false → (w = .response ∨ w = .counts) ∧ R

/-- R166: at the end of an event the writers that are still ready stay, but for those the event itself took out. -/
theorem OrderKept.settles {R : Prop} {s u : State} (h : OrderKept R s u) (hs : ReadyRight s) :
    ReadyRight (settleOutputs s u) ∧ OrderMoves R s (settleOutputs s u) := by
  rcases h with hq | ⟨hr, stays, hn, hst, hq⟩
  · obtain ⟨right, fresh, hf, ho⟩ := settleOutputs_order s (t := u) (by rw [hq]; exact hs.2.1)
    refine ⟨right, writerReady (settleOutputs s u).notice, fresh, by rw [ho, hq]; rfl, hf, fun _ => id, ?_⟩
    intro w h1 h2
    rw [h1] at h2
    cases h2
  · obtain ⟨right, fresh, hf, ho⟩ := settleOutputs_order s (t := u)
      (by rw [hq, flatten_keepWriters]; exact hs.2.1.filter stays)
    refine ⟨right, fun w => stays w && writerReady (settleOutputs s u).notice w, fresh, ?_, hf, ?_, ?_⟩
    · rw [ho, hq, keepWriters_twice]; rfl
    · simp
    · intro w h1 h2
      simp only [h1, Bool.and_true] at h2
      cases w with
      | notice => rw [hn] at h2; cases h2
      | status => rw [hst] at h2; cases h2
      | response => exact ⟨.inl rfl, hr⟩
      | counts => exact ⟨.inr rfl, hr⟩

/-- Where the notice unit stands as it was, every ready writer keeps its place. -/
theorem OrderMoves.of_eq {R : Prop} {s t : State} (h : t.notice = s.notice) (hs : ReadyRight s) :
    OrderMoves R s t := by
  obtain ⟨hne, -, hready⟩ := hs
  have whole : ∀ g ∈ s.notice.readyQueue, g.filter (writerReady s.notice) = g := fun g hg =>
    List.filter_eq_self.2 fun w hw => (hready w).1 (List.mem_flatten.2 ⟨g, hg, hw⟩)
  refine ⟨writerReady s.notice, [], ?_, Nat.zero_le _, fun w => by rw [h]; exact id, fun w h1 h2 => ?_⟩
  · rw [h, List.map_congr_left whole, List.map_id', List.append_nil, List.filter_eq_self.2]
    intro g hg
    simpa using hne g hg
  · rw [h, h2] at h1
    cases h1

/-! ## RESET_N -/

/-- R18, R97, R171: what RESET_N_ASSERT leaves, where it takes place. -/
theorem resetNAssert_next {s t : State} (h : exec .resetNAssert s = .next t) :
    t = { s with
      pins := pinsInReset
      monitor := { s.monitor with poll := none }
      boot := match s.boot.spi with
        | none => s.boot
        | some _ => { s.boot with spi := none, bytes := [] }
      dn := { s.dn with inFlight := staleInFlight s.dn.inFlight } } := by
  have h : Host.Outcome.next _ = Host.Outcome.next t := next_of_whileReleased h
  cases h
  rfl

/-- R18: what RESET_N_RELEASE leaves, where it takes place. -/
theorem resetNRelease_next {s t : State} (h : exec .resetNRelease s = .next t) :
    t = { State.reset with
      dn := { inFlight := staleInFlight s.dn.inFlight, lastGranted := .notice }
      freeUses := s.freeUses
      pending := s.pending } := by
  simp only [exec, execResetNRelease] at h
  split at h <;> cases h
  rfl

/-- R97, R171: RESET_N_ASSERT ends a poll and starts nothing. -/
theorem resetNAssert_bounds {s t : State} (h : exec .resetNAssert s = .next t) : KeepsBounds s t := by
  rw [resetNAssert_next h]
  refine ⟨id, id, fun ⟨hd, hq⟩ => ⟨by simpa [staleInFlight] using hd, hq⟩, fun hs d hd => hs d ?_⟩
  simp only [mem_runningDues] at hd ⊢
  simp only [Option.map_none, reduceCtorEq, or_false] at hd
  tauto

theorem reset_countersRight : CountersRight State.reset := by
  intro i
  cases i <;> exact counterRight_zero

theorem reset_hingesRight : HingesRight State.reset := by unfold HingesRight HingeRight; decide

/-- R14, R166, R170: the reset values are within the bounds; what was in flight stays so. -/
theorem resetNRelease_bounds {s t : State} (h : exec .resetNRelease s = .next t) : KeepsBounds s t := by
  rw [resetNRelease_next h]
  refine ⟨fun _ => reset_countersRight, fun _ => reset_hingesRight, fun ⟨hd, _⟩ => ?_, fun _ d _ => Nat.zero_le d⟩
  exact ⟨by simpa [staleInFlight] using hd, Nat.zero_le _, Nat.zero_le _, .nil⟩

theorem reset_readyRight : ReadyRight State.reset := by
  refine ⟨by decide, by decide, fun w => ?_⟩
  cases w <;> decide

/-! ## Every step -/

theorem exec_bounds {c : Instr} {s t : State} (h : exec c s = .next t) : KeepsBounds s t := by
  rcases exec_event h with rfl | rfl | ⟨u, e, rfl⟩
  · exact resetNAssert_bounds h
  · exact resetNRelease_bounds h
  · exact (settleOutputs_bounds s u).after e.bounds

theorem exec_order {c : Instr} {s t : State} (h : exec c s = .next t) (hs : ReadyRight s) :
    ReadyRight t ∧ (c ≠ .resetNRelease → OrderMoves (∃ q ∈ requestsBrought c s, asksRestart q) s t) := by
  rcases exec_event h with rfl | rfl | ⟨u, e, rfl⟩
  · have hn : t.notice = s.notice := by rw [resetNAssert_next h]
    exact ⟨by unfold ReadyRight; rw [hn]; exact hs, fun _ => .of_eq hn hs⟩
  · rw [resetNRelease_next h]
    exact ⟨reset_readyRight, fun hc => absurd rfl hc⟩
  · obtain ⟨hr, ho⟩ := e.order.settles hs
    exact ⟨hr, fun _ => ho⟩

/-- A command brings the same requests whatever waits in the queue of commands. -/
theorem requestsBrought_pending (c : Instr) (s : State) (rest : List Instr) :
    requestsBrought c { s with pending := rest } = requestsBrought c s := by
  cases c with
  | intakeWaitEnd p => cases p <;> rfl
  | _ => rfl

/-- Settles O53: the bounds through every operation (`exec_bounds`), the order through every event (`exec_order`). -/
theorem boundsStayRight : Obligations.BoundsStayRight := by
  intro s t h
  unfold step at h
  cases hp : s.pending with
  | nil =>
    simp only [hp, Host.Outcome.next.injEq] at h
    subst h
    exact ⟨id, id, id, id, fun hs => ⟨hs, fun _ => OrderMoves.of_eq rfl hs⟩⟩
  | cons c rest =>
    simp only [hp] at h
    obtain ⟨hc, hh, hq, ht⟩ := exec_bounds h
    refine ⟨hc, hh, hq, ht, fun hs => ?_⟩
    obtain ⟨hr, ho⟩ := exec_order h hs
    refine ⟨hr, fun hne => ?_⟩
    obtain ⟨stays, fresh, h1, h2, h3, h4⟩ := ho (by rintro rfl; exact hne rfl)
    refine ⟨stays, fresh, h1, h2, h3, fun w hw hst => ?_⟩
    obtain ⟨hwr, q, hq, hqr⟩ := h4 w hw hst
    exact ⟨hwr, c, rfl, q, by rwa [requestsBrought_pending] at hq, hqr⟩

end Sys2Proof.Machine
end

section
/-!
O55: contexts, intake places and the old-write set through every step (R1, R6, R8, R45, R107, R108).
-/
namespace Sys2Proof.Machine

/-! ## The parts of `OutstandingRight` -/

/-- R6, R45: at most one context for each name, its tag outstanding. -/
def ContextsRight (s : State) : Prop :=
  (s.contexts.map fun c => (c.port, c.tag)).Nodup ∧ ∀ c ∈ s.contexts, c.tag ∈ (portOf c.port s).tags

/-- R1, R6, R8: what `WaitsRight` asks of one port. -/
def PlaceRight (q : PortState) : Prop :=
  (∀ r, placeRequest q.place = some r → presentable r = true) ∧
    ∀ r, q.place = .waitTable r → r.tag ∉ q.tags ∧ ∃ k, admittedWindow r = some (.surface k)

/-- R107, R108: the old writes are outstanding, and there is one exactly in DRAINING. -/
def OldWritesRight (s : State) : Prop :=
  (∀ k ∈ s.ctrl.oldWrites, k ∈ outstandingWrites s) ∧ (s.ctrl.oldWrites ≠ [] ↔ s.ctrl.state = .draining)

theorem waitsRight_iff (s : State) : WaitsRight s ↔ ∀ p, PlaceRight (portOf p s) := by
  simp only [WaitsRight, PlaceRight, tagOutstanding, List.contains_eq_mem, decide_eq_false_iff_not]
  exact ⟨fun ⟨h1, h2⟩ p => ⟨h1 p, h2 p⟩, fun h => ⟨fun p => (h p).1, fun p => (h p).2⟩⟩

theorem outstandingRight_iff (s : State) :
    OutstandingRight s ↔ ContextsRight s ∧ (∀ p, PlaceRight (portOf p s)) ∧ OldWritesRight s := by
  rw [← waitsRight_iff]
  simp only [OutstandingRight, ContextsRight, OldWritesRight, tagOutstanding, List.contains_eq_mem, decide_eq_true_eq]
  exact ⟨fun ⟨a, b, c, d⟩ => ⟨⟨a, b⟩, c, d⟩, fun ⟨⟨a, b⟩, c, d⟩ => ⟨a, b, c, d⟩⟩

theorem mem_outstandingWrites {k : Key} {s : State} :
    k ∈ outstandingWrites s ↔ ∃ c ∈ s.contexts, c.kind = .write ∧ (c.port, c.tag) = k := by
  simp [outstandingWrites, and_assoc]

theorem outstandingWrites_congr {s t : State} (h : t.contexts = s.contexts) :
    outstandingWrites t = outstandingWrites s := by
  unfold outstandingWrites; rw [h]

/-- Outside DRAINING there is no old write (R108). -/
theorem OldWritesRight.none {s : State} (h : OldWritesRight s) (hs : s.ctrl.state ≠ .draining) :
    s.ctrl.oldWrites = [] :=
  Classical.byContradiction fun hn => hs (h.2.1 hn)

/-! ## Operations that leave the requests alone -/

/-- From `s` to `t` the intake places, the outstanding tags and the contexts are as they were, and the old-write set stays
right. -/
structure KeepsRequests (s t : State) : Prop where
  place : ∀ p, (portOf p t).place = (portOf p s).place
  tags : ∀ p, (portOf p t).tags = (portOf p s).tags
  contexts : t.contexts = s.contexts
  old : OldWritesRight s → OldWritesRight t

theorem KeepsRequests.refl (s : State) : KeepsRequests s s := ⟨fun _ => rfl, fun _ => rfl, rfl, id⟩

theorem KeepsRequests.after {s t u : State} (g : KeepsRequests t u) (h : KeepsRequests s t) : KeepsRequests s u :=
  ⟨fun p => (g.1 p).trans (h.1 p), fun p => (g.2 p).trans (h.2 p), g.3.trans h.3, g.4 ∘ h.4⟩

theorem KeepsRequests.right {s t : State} (k : KeepsRequests s t) (h : OutstandingRight s) : OutstandingRight t := by
  obtain ⟨⟨hn, ht⟩, hw, ho⟩ := (outstandingRight_iff s).1 h
  refine (outstandingRight_iff t).2 ⟨⟨by rwa [k.contexts], fun c hc => ?_⟩, fun p => ?_, k.old ho⟩
  · rw [k.tags]; exact ht c (k.contexts ▸ hc)
  · unfold PlaceRight; rw [k.place, k.tags]; exact hw p

/-- The old-write set depends on the controller and the contexts alone. -/
theorem OldWritesRight.congr {s t : State} (h : OldWritesRight s) (hc : t.contexts = s.contexts)
    (ho : t.ctrl.oldWrites = s.ctrl.oldWrites) (hs : t.ctrl.state = s.ctrl.state) : OldWritesRight t := by
  unfold OldWritesRight; rw [ho, hs, outstandingWrites_congr hc]; exact h

/-- A part whose ports differ in their path lists and responses alone. -/
theorem KeepsRequests.of_ports {s t : State} (hp : ∀ p, (portOf p t).place = (portOf p s).place)
    (ht : ∀ p, (portOf p t).tags = (portOf p s).tags) (hc : t.contexts = s.contexts)
    (ho : t.ctrl.oldWrites = s.ctrl.oldWrites) (hs : t.ctrl.state = s.ctrl.state) : KeepsRequests s t :=
  ⟨hp, ht, hc, fun h => h.congr hc ho hs⟩

/-- A part whose ports are as they were, whatever the controller does with the old-write set. -/
theorem KeepsRequests.of_old {s t : State} (h0 : t.up0 = s.up0) (h1 : t.up1 = s.up1) (hc : t.contexts = s.contexts)
    (ho : OldWritesRight s → OldWritesRight t) : KeepsRequests s t :=
  ⟨fun p => by cases p <;> simp only [portOf, h0, h1], fun p => by cases p <;> simp only [portOf, h0, h1], hc, ho⟩

/-- Nothing of the ports, the contexts and the controller has changed. -/
theorem KeepsRequests.of_eq {s t : State} (h0 : t.up0 = s.up0) (h1 : t.up1 = s.up1) (hc : t.contexts = s.contexts)
    (hk : t.ctrl = s.ctrl) : KeepsRequests s t :=
  .of_old h0 h1 hc fun h => h.congr hc (by rw [hk]) (by rw [hk])

theorem onNotice_requests (f : NoticeUnit → NoticeUnit) (s : State) : KeepsRequests s (onNotice f s) :=
  .of_eq rfl rfl rfl rfl

theorem onCmd_requests (f : CommandBlock → CommandBlock) (s : State) : KeepsRequests s (onCmd f s) :=
  .of_eq rfl rfl rfl rfl

theorem onMonitor_requests (f : Monitor → Monitor) (s : State) : KeepsRequests s (onMonitor f s) :=
  .of_eq rfl rfl rfl rfl

theorem onEngine_requests (f : Engine → Engine) (s : State) : KeepsRequests s (onEngine f s) :=
  .of_eq rfl rfl rfl rfl

theorem raise_requests (k : NoticeKind) (s : State) : KeepsRequests s (raise k s) := onNotice_requests _ s

theorem respond_requests (q : Byte) (r : CommandResult) (d : BitVec 16) (s : State) :
    KeepsRequests s (respond q r d s) := onNotice_requests _ s

theorem countMemoryError_requests (s : State) : KeepsRequests s (countMemoryError s) := .of_eq rfl rfl rfl rfl

/-- A change of the controller that keeps its state and its old writes. -/
theorem onCtrl_requests {f : Controller → Controller} {s : State} (ho : (f s.ctrl).oldWrites = s.ctrl.oldWrites)
    (hs : (f s.ctrl).state = s.ctrl.state) : KeepsRequests s (onCtrl f s) :=
  .of_old rfl rfl rfl fun h => h.congr rfl ho hs

theorem joinPath_requests (p : Port) (e : PathEntry) (s : State) : KeepsRequests s (joinPath p e s) := by
  refine .of_ports (fun q => ?_) (fun q => ?_) (by simp) (by simp) (by simp) <;> cases p <;> cases q <;> rfl

theorem popPath_requests (p : Port) (s : State) : KeepsRequests s (popPath p s) := by
  refine .of_ports (fun q => ?_) (fun q => ?_) (by simp) (by simp) (by simp) <;> cases p <;> cases q <;> rfl

theorem makeReady_requests (p : Port) (rr : ReadyResponse) (s : State) : KeepsRequests s (makeReady p rr s) := by
  refine .of_ports (fun q => ?_) (fun q => ?_) (by simp) (by simp) (by simp) <;> cases p <;> cases q <;> rfl

theorem takeTiles_requests (s : State) :
    KeepsRequests s (takeTiles s) := .of_eq (by simp) (by simp) (by simp) (by simp)

/-! ### Commits, the flip and the slot -/

/-- R106, R107: a commit sets the old-write set right, whatever it was: the surface writes outstanding, and DRAINING
exactly where there is one. -/
theorem beginTransition_old (d : DrainKind) (r : RecordCopy) (o : Option RecordCopy) (s : State) :
    OldWritesRight (beginTransition d r o s) := by
  obtain ⟨⟨-, hc, -⟩, -⟩ := beginTransition_spec d r o s
  refine ⟨fun k hk => ?_, ?_⟩
  · rw [outstandingWrites_congr (s := s) (by simp)]
    rwa [hc] at hk
  · rw [hc]
    by_cases h : outstandingWrites s = [] <;> simp [h]

theorem beginTransition_requests (d : DrainKind) (r : RecordCopy) (o : Option RecordCopy) (s : State) :
    KeepsRequests s (beginTransition d r o s) :=
  .of_old (by simp) (by simp) (by simp) fun _ => beginTransition_old d r o s

theorem commitLayout_requests (n : Nat) (s : State) : KeepsRequests s (commitLayout n s) := by
  unfold commitLayout
  repeat' split
  · exact .refl s
  · exact .refl s
  · exact beginTransition_requests _ _ _ s

theorem resolveSlot_requests (s : State) : KeepsRequests s (resolveSlot s) := by
  unfold resolveSlot
  split
  · exact .refl s
  · exact (commitLayout_requests _ _).after <| onCtrl_requests rfl rfl

/-- R114: the flip leaves for STEADY from a state with no old write. -/
theorem flip_requests {s : State} (h : s.ctrl.state ≠ .draining) : KeepsRequests s (flip s) := by
  rw [flip_eq]
  refine (resolveSlot_requests _).after <| .of_old rfl rfl rfl fun ho => ?_
  have hn := ho.none h
  exact ⟨by simp [flipped, hn], by simp [flipped, hn]⟩

theorem completionTest_requests (s : State) : KeepsRequests s (completionTest s) := by
  rw [completionTest_spec]
  split
  · rename_i h
    have waits : KeepsRequests s { s with ctrl := { s.ctrl with state := .flipWait } } := by
      refine .of_old rfl rfl rfl fun ho => ?_
      have hn := ho.none (by rw [h.1]; decide)
      exact ⟨by simp [hn], by simp [hn]⟩
    split
    · exact (flip_requests (by simp)).after waits
    · exact waits
  · exact .refl s

/-- R107, R108: the old-write set is right after one write has left it, where the others were outstanding. -/
theorem leaveOldWrites_old {key : Key} {s : State} (h : ∀ k ∈ s.ctrl.oldWrites, k ≠ key → k ∈ outstandingWrites s)
    (hd : s.ctrl.oldWrites ≠ [] ↔ s.ctrl.state = .draining) : OldWritesRight (leaveOldWrites key s) := by
  unfold leaveOldWrites
  dsimp only
  split
  · rename_i hk
    have hs : s.ctrl.state = .draining := hd.1 (List.ne_nil_of_mem hk)
    split
    · rename_i hlast
      have none : (s.ctrl.oldWrites.filter fun k => k ≠ key) = [] := hlast.2
      unfold enterRelocating
      refine ((completionTest_requests _).after <| takeTiles_requests _).old ?_
      unfold OldWritesRight
      simp only [onEngine_ctrl, onCtrl_ctrl, none]
      exact ⟨nofun, by simp⟩
    · rename_i hrest
      refine ⟨fun k hk => ?_, ?_⟩
      · simp only [onCtrl_ctrl, List.mem_filter, decide_eq_true_eq] at hk
        exact h k hk.1 hk.2
      · simp only [onCtrl_ctrl, hs, true_and] at hrest ⊢
        simpa using hrest
  · rename_i hk
    exact ⟨fun k hmem => h k hmem fun e => hk (e ▸ hmem), hd⟩

theorem slotRequest_requests (c : Option Nat) (n : Nat) (s : State) : KeepsRequests s (slotRequest c n s) := by
  rw [slotRequest_eq]
  exact .of_old rfl rfl rfl fun h => h.congr rfl rfl rfl

theorem layoutRequest_requests (n : Nat) (s : State) : KeepsRequests s (layoutRequest n s) := by
  unfold layoutRequest
  repeat' split
  · exact .refl s
  · exact slotRequest_requests _ n s
  · exact .refl s
  · exact commitLayout_requests n s
  all_goals exact slotRequest_requests _ n s

/-! ### The table load, the timers and the engine -/

theorem endLoadReplaced_requests (t : Table) (s : State) : KeepsRequests s (endLoadReplaced t s) := by
  have off : KeepsRequests s (onCtrl (fun c => { c with loadHold := false }) s) := onCtrl_requests rfl rfl
  unfold endLoadReplaced
  dsimp only
  split
  · exact (beginTransition_requests _ _ _ _).after off
  · exact (resolveSlot_requests _).after off

theorem endLoadRejected_requests (q : Byte) (r : CommandResult) (d : BitVec 16) (s : State) :
    KeepsRequests s (endLoadRejected q r d s) := by
  have kept : KeepsRequests s (endLoadKept s) := (resolveSlot_requests _).after <| onCtrl_requests rfl rfl
  exact (respond_requests _ _ _ _).after <| (raise_requests _ _).after kept

theorem endLoadTaken_requests (q : Byte) (t : Table) (s : State) : KeepsRequests s (endLoadTaken q t s) :=
  (respond_requests _ _ _ _).after <| (raise_requests _ _).after <| (endLoadReplaced_requests t _).after <|
    (onMonitor_requests _ _).after <| onCmd_requests _ s

theorem endLoad_requests (l : TableLoad) (s : State) : KeepsRequests s (endLoad l s) := by
  have off : KeepsRequests s (onCmd (fun c => { c with load := none }) s) := onCmd_requests _ s
  unfold endLoad
  dsimp only
  generalize (if l.awaitingHead = true then l.bytes else l.bytes.take l.length) = img
  repeat' split
  · exact (endLoadRejected_requests _ _ _ _).after off
  · exact (endLoadRejected_requests _ _ _ _).after off
  · exact (endLoadRejected_requests _ _ _ _).after off
  · exact (endLoadTaken_requests _ _ _).after off

theorem loadAnswer_requests (l : TableLoad) (a : Answer) (s : State) : KeepsRequests s (loadAnswer l a s) := by
  have counted : ∀ m, KeepsRequests s (loadReadFails m s) := fun m => by
    unfold loadReadFails
    split
    · exact .refl s
    · exact countMemoryError_requests s
  unfold loadAnswer
  dsimp only
  repeat' split
  · exact (endLoad_requests _ _).after (counted _)
  · exact (onCmd_requests _ _).after (counted _)
  · exact endLoad_requests _ s
  · exact onCmd_requests _ s
  · exact endLoad_requests _ s
  · exact onCmd_requests _ s

theorem settleExpires_requests (n : Nat) (s : State) : KeepsRequests s (settleExpires n s) := by
  have expired : KeepsRequests s (onMonitor (fun m => { m with settle := .expired n }) s) := .of_eq rfl rfl rfl rfl
  unfold settleExpires
  dsimp only
  split
  · exact (layoutRequest_requests n _).after expired
  · exact expired

theorem fallbackExpires_requests (s : State) : KeepsRequests s (fallbackExpires s) := by
  have spent : KeepsRequests s (onMonitor (fun m => { m with fallback := .spent }) s) := .of_eq rfl rfl rfl rfl
  unfold fallbackExpires
  dsimp only
  repeat' split
  · exact spent
  · exact (raise_requests _ _).after <| (layoutRequest_requests 0 _).after spent
  · exact spent

/-- R137, R143: the held requests that are released join their path lists. -/
theorem releaseHeld_requests (s : State) : KeepsRequests s (releaseHeld s) := by
  obtain ⟨hp, hs⟩ := releaseHeld_spec s
  exact .of_ports (fun p => by rw [hp]) (fun p => by rw [hp]) (by rw [hs]) (by rw [hs]) (by rw [hs])

theorem endTile_requests (b : BufferId) (w : Writing) (s : State) : KeepsRequests s (endTile b w s) :=
  (completionTest_requests _).after <| (takeTiles_requests _).after <| (releaseHeld_requests _).after <|
    .of_eq rfl rfl rfl rfl

theorem rowWriteAnswered_requests (b : BufferId) (w : Writing) (a : Answer) (s : State) :
    KeepsRequests s (rowWriteAnswered b w a s) := by
  have counted : KeepsRequests s (if (answerOk a || w.failure) = true then s else countMemoryError s) := by
    split
    · exact .refl s
    · exact countMemoryError_requests s
  unfold rowWriteAnswered
  dsimp only
  split
  · exact (endTile_requests _ _ _).after counted
  · exact (onEngine_requests _ _).after counted

theorem dropAnswer_requests (f : InFlight) (s : State) : KeepsRequests s (dropAnswer f s) := by
  unfold dropAnswer discardAnswered
  repeat' split
  · exact .refl s
  · exact (completionTest_requests _).after <| (takeTiles_requests _).after <| .of_eq rfl rfl rfl rfl
  · exact .of_eq rfl rfl rfl rfl
  · exact .refl s
  · exact .of_eq rfl rfl rfl rfl
  · exact .refl s

theorem takeAwaitedFlip_requests (s : State) : KeepsRequests s (takeAwaitedFlip s) := by
  unfold takeAwaitedFlip
  split
  · rename_i h
    exact flip_requests (by rw [h]; decide)
  · exact .refl s

theorem frameStarts_requests (s : State) : KeepsRequests s (frameStarts s) :=
  KeepsRequests.after
    (.of_eq (by simp [frameStarts, recordStart, onFrame]) (by simp [frameStarts, recordStart, onFrame])
      (by simp [frameStarts, recordStart, onFrame]) (by simp [frameStarts, recordStart, onFrame]))
    (takeAwaitedFlip_requests s)

theorem lossTimerExpires_requests (s : State) : KeepsRequests s (lossTimerExpires s) := by
  unfold lossTimerExpires
  dsimp only
  split
  · exact .of_eq rfl rfl rfl rfl
  · exact (takeAwaitedFlip_requests _).after <| .of_eq rfl rfl rfl rfl

/-! ## The ports -/

/-- A port may take more tags and a new place, where the place is right. -/
theorem OutstandingRight.withPort {p : Port} {q : PortState} {s : State} (h : OutstandingRight (setPlace p .empty s))
    (ht : ∀ tag ∈ (portOf p s).tags, tag ∈ q.tags) (hq : PlaceRight q) : OutstandingRight (setPort p q s) := by
  obtain ⟨⟨hn, hc⟩, hw, ho⟩ := (outstandingRight_iff _).1 h
  refine (outstandingRight_iff _).2 ⟨⟨by simpa using hn, fun c hmem => ?_⟩, fun o => ?_, ?_⟩
  · have hin := hc c (by simpa using hmem)
    by_cases hcp : c.port = p
    · subst hcp
      simp only [setPlace, portOf_setPort] at hin ⊢
      exact ht _ hin
    · simpa [setPlace, hcp] using hin
  · by_cases hop : o = p
    · subst hop
      simpa using hq
    · simpa [setPlace, hop] using hw o
  · exact ho.congr (by simp) (by simp) (by simp)

/-- An EMPTY place is right. -/
theorem placeRight_empty {q : PortState} (h : q.place = .empty) : PlaceRight q := by
  simp [PlaceRight, placeRequest, h]

/-- A place in WAIT_TAG, WAIT_HOLD or WAIT_ORDER is right for a request that can be presented. -/
theorem placeRight_waits {q : PortState} {r : Request} (h : placeRequest q.place = some r)
    (ht : ∀ r, q.place ≠ .waitTable r) (hr : presentable r = true) : PlaceRight q :=
  ⟨fun r' hr' => by rw [h] at hr'; cases hr'; exact hr, fun r' h' => absurd h' (ht r')⟩

theorem OutstandingRight.emptied {s : State} (h : OutstandingRight s) (p : Port) :
    OutstandingRight (setPlace p .empty s) := by
  obtain ⟨⟨hn, hc⟩, hw, ho⟩ := (outstandingRight_iff _).1 h
  refine (outstandingRight_iff _).2
    ⟨⟨by simpa using hn, fun c hmem => ?_⟩, fun o => ?_, ho.congr (by simp) (by simp) (by simp)⟩
  · have hin := hc c (by simpa using hmem)
    by_cases hcp : c.port = p
    · subst hcp
      simpa [setPlace] using hin
    · simpa [setPlace, hcp] using hin
  · by_cases hop : o = p
    · subst hop
      exact placeRight_empty (by simp [setPlace])
    · simpa [setPlace, hop] using hw o

/-- The place may be set to one that is right, whatever stood in it. -/
theorem OutstandingRight.withPlace {p : Port} {l : Place} {s : State} (h : OutstandingRight (setPlace p .empty s))
    (hl : PlaceRight { portOf p s with place := l }) : OutstandingRight (setPlace p l s) :=
  h.withPort (fun _ => id) hl

/-! ## Commands (R153 to R161) -/

/-- R19, R45: what RESTART aborts leaves the contexts and the places right. -/
theorem abortWaiting_right {s : State} (h : OutstandingRight s) :
    ContextsRight (abortWaiting s) ∧ ∀ p, PlaceRight (portOf p (abortWaiting s)) := by
  obtain ⟨⟨hn, hc⟩, hw, -⟩ := (outstandingRight_iff _).1 h
  have hsub : (abortWaiting s).contexts.Sublist s.contexts := by
    simp only [abortWaiting, abortPort_contexts]
    exact List.filter_sublist
  refine ⟨⟨hn.sublist (hsub.map _), fun c hmem => ?_⟩, fun p => ?_⟩
  · rw [abortWaiting_port]
    exact List.mem_append_left _ (hc c (hsub.subset hmem))
  · rw [abortWaiting_port]
    have hplace := (hw p).1
    refine ⟨fun r hr => ?_, fun r hr => ?_⟩
    · simp only [placeAfterAbort] at hr
      split at hr
      · rename_i w m he
        split at hr <;> simp only [placeRequest, reduceCtorEq, Option.some.injEq] at hr
        subst hr
        exact hplace w (by rw [he]; rfl)
      · cases hr
    · simp only [placeAfterAbort] at hr
      repeat' split at hr
      all_goals cases hr

/-- R160, R161: RESTART takes its old writes from what it leaves outstanding; in LOADING there is none. -/
theorem takeRestart_right {q : Byte} {s : State} (h : OutstandingRight s) : OutstandingRight (takeRestart q s) := by
  unfold takeRestart
  split
  · rename_i hl
    obtain ⟨hc, hw⟩ := abortWaiting_right h
    have ho := (((outstandingRight_iff _).1 h).2.2).none (by rw [hl]; decide)
    have right : OutstandingRight (abortWaiting s) :=
      (outstandingRight_iff _).2 ⟨hc, hw, by simp [ho], by simp [ho, hl]⟩
    exact KeepsRequests.right (.of_eq rfl rfl rfl rfl) right
  · have same : KeepsRequests s (onNotice discardReports (abandonLoad s)) := .of_eq rfl rfl rfl rfl
    obtain ⟨hc, hw⟩ := abortWaiting_right (same.right h)
    refine (outstandingRight_iff _).2 ⟨?_, fun p => ?_, ?_⟩
    · unfold ContextsRight portOf at *
      simpa [restartRunning] using hc
    · cases p
      · simpa [restartRunning, portOf] using hw .up0
      · simpa [restartRunning, portOf] using hw .up1
    · exact beginTransition_old _ _ _ _

theorem runCommand_right {q c : Byte} {a : BitVec 16} {s : State} (h : OutstandingRight s) :
    OutstandingRight (runCommand q c a s) := by
  have answered : ∀ (r : CommandResult) d u, KeepsRequests s u → OutstandingRight (respond q r d u) := fun r d u k =>
    KeepsRequests.right (.of_eq rfl rfl rfl rfl) (k.right h)
  unfold runCommand takePublish takeForce takeRelease takeReport
  repeat' split
  · exact answered _ _ s (.refl s)
  · exact KeepsRequests.right (.of_old rfl rfl rfl fun h => h.congr rfl rfl rfl) h
  · exact answered _ _ s (.refl s)
  · exact answered _ _ _ ((layoutRequest_requests _ _).after (.of_eq rfl rfl rfl rfl))
  · exact answered _ _ s (.refl s)
  · exact answered _ _ s (.refl s)
  · exact answered _ _ _ (.of_eq (by simp) (by simp) (by simp) (by simp))
  · exact answered _ _ s (.refl s)
  · exact KeepsRequests.right (.of_eq rfl rfl rfl rfl) h
  · exact takeRestart_right h
  · exact answered _ _ s (.refl s)

theorem reportWatched_right {p : Port} {r : Request} {s : State} (h : OutstandingRight s) :
    OutstandingRight (reportWatched p r s) := by
  have notice : KeepsRequests s (match wordWrittenAt r noticeRecordAddress with
      | some w => reportNoticeWrite p r w s
      | none => s) := by
    split
    · exact .of_eq (by simp) (by simp) (by simp) (by simp)
    · exact .refl s
  have table : ∀ x, KeepsRequests x (if writesTableArea r then reportTableWrite x else x) := fun x => by
    split
    · exact .of_eq rfl rfl rfl rfl
    · exact .refl x
  have reached := ((table _).after notice).right h
  unfold reportWatched
  dsimp only
  generalize (if writesTableArea r then reportTableWrite _ else _) = u at reached ⊢
  split
  · unfold reportCommandWord
    split
    · exact reached
    · exact runCommand_right ((onCmd_requests _ u).right reached)
  · exact reached

/-! ## Admission (R6, R8, R17) -/

theorem enterHold_requests (key : Key) (ts : List BankTile) (s : State) : KeepsRequests s (enterHold key ts s) :=
  .of_eq (by simp) (by simp) (by simp) (by simp)

theorem routeSurface_right {p : Port} {r : Request} {c : Context} {s : State}
    (h : OutstandingRight (setPlace p .empty s))
    (hr : presentable r = true) : OutstandingRight (routeSurface p r c s) := by
  unfold routeSurface
  repeat' split
  · exact h.withPlace (placeRight_waits rfl nofun hr)
  · exact (enterHold_requests _ _ _).right h
  · exact h.withPlace (placeRight_waits rfl nofun hr)
  · exact (joinPath_requests _ _ _).right h

theorem routeRaw_right {p : Port} {r : Request} {s : State} (h : OutstandingRight (setPlace p .empty s))
    (hr : presentable r = true) : OutstandingRight (routeRaw p r s) := by
  unfold routeRaw
  split
  · exact h.withPlace (placeRight_waits rfl nofun hr)
  · exact (joinPath_requests _ _ _).right h

/-- A tag more is outstanding while the place is empty. -/
theorem OutstandingRight.marked {p : Port} {tag : Tag} {s : State} (h : OutstandingRight (setPlace p .empty s)) :
    OutstandingRight (setPlace p .empty (markTag p tag s)) := by
  have e : setPlace p .empty (markTag p tag s) =
      setPort p { portOf p s with place := .empty, tags := (portOf p s).tags ++ [tag] } s := by
    simp [setPlace, markTag]
  rw [e]
  exact h.withPort (fun _ hm => List.mem_append_left _ hm) (placeRight_empty rfl)

/-- R46: the context of a request whose tag was free joins the others, its tag outstanding from now on. -/
theorem OutstandingRight.received {p : Port} {c : Context} {s : State} (h : OutstandingRight (setPlace p .empty s))
    (hp : c.port = p) (ht : c.tag ∉ (portOf p s).tags) :
    OutstandingRight { setPlace p .empty (markTag p c.tag s) with contexts := s.contexts ++ [c] } := by
  obtain ⟨⟨hn, hc⟩, hw, ho⟩ := (outstandingRight_iff _).1 (h.marked (tag := c.tag))
  obtain ⟨⟨-, hfree⟩, -⟩ := (outstandingRight_iff _).1 h
  simp only [setPlace_contexts, markTag_contexts] at hn hc hfree
  have hport : ∀ o, portOf o { setPlace p .empty (markTag p c.tag s) with contexts := s.contexts ++ [c] } =
      portOf o (setPlace p .empty (markTag p c.tag s)) := fun o => by cases o <;> rfl
  refine (outstandingRight_iff _).2 ⟨⟨?_, fun d hd => ?_⟩, fun o => by rw [hport]; exact hw o, fun k hk => ?_, ho.2⟩
  · simp only [List.map_append, List.map_cons, List.map_nil, List.nodup_append, List.mem_map, List.mem_singleton]
    refine ⟨hn, by simp, ?_⟩
    rintro _ ⟨d, hd, rfl⟩ _ rfl e
    simp only [Prod.mk.injEq] at e
    obtain ⟨hdp, hdt⟩ := e
    have hin := hfree d hd
    rw [hdp, hdt, hp] at hin
    simp only [setPlace, portOf_setPort] at hin
    exact ht hin
  · rw [hport]
    rcases List.mem_append.1 hd with hd | hd
    · exact hc d hd
    · simp only [List.mem_singleton] at hd
      subst hd hp
      simp [setPlace, markTag]
  · obtain ⟨d, hd, hk⟩ := mem_outstandingWrites.1 (ho.1 k hk)
    exact mem_outstandingWrites.2 ⟨d, List.mem_append_left _ (by simpa using hd), hk⟩

theorem acceptSurface_right {p : Port} {k : Nat} {r : Request} {s : State}
    (h : OutstandingRight (setPlace p .empty s))
    (hr : presentable r = true) (ht : r.tag ∉ (portOf p s).tags) : OutstandingRight (acceptSurface p k r s) := by
  have taken : ∀ n, OutstandingRight (setPlace p .empty (countEvent .clipped n { markTag p r.tag s with
      contexts := (markTag p r.tag s).contexts ++ [receive p k r s] })) := fun n => by
    refine KeepsRequests.right (s := { setPlace p .empty (markTag p r.tag s) with
      contexts := s.contexts ++ [receive p k r s] }) ?_ (h.received rfl ht)
    cases p <;> exact .of_eq rfl rfl rfl rfl
  unfold acceptSurface
  dsimp only
  split
  · exact (makeReady_requests _ _ _).right (taken _)
  · exact routeSurface_right (taken _) hr

theorem admitRequest_right {p : Port} {r : Request} {s : State} (h : OutstandingRight (setPlace p .empty s))
    (hr : presentable r = true) (ht : r.tag ∉ (portOf p s).tags) : OutstandingRight (admitRequest p r s) := by
  unfold admitRequest acceptRequest
  split
  · refine (makeReady_requests _ _ _).right (OutstandingRight.marked ?_)
    exact KeepsRequests.right (by cases p <;> exact .of_eq rfl rfl rfl rfl) h
  · rename_i w hw
    split
    · rename_i hs
      refine h.withPlace ⟨fun r' h' => by cases h'; exact hr, fun r' h' => ?_⟩
      cases h'
      cases w with
      | surface k => exact ⟨ht, k, hw⟩
      | raw | system => cases hs.1
    · split
      · exact routeRaw_right h.marked hr
      · exact reportWatched_right ((joinPath_requests _ _ _).right h.marked)
      · exact acceptSurface_right h hr ht

theorem not_mem_of_tagOutstanding {p : Port} {tag : Tag} {s : State} (h : ¬ tagOutstanding p tag s = true) :
    tag ∉ (portOf p s).tags := by
  simpa [tagOutstanding] using h

theorem presentRequest_right {p : Port} {r : Request} {s : State} (h : OutstandingRight s)
    (hr : presentable r = true) : OutstandingRight (presentRequest p r s) := by
  unfold presentRequest
  split
  · exact (h.emptied p).withPlace (placeRight_waits rfl nofun hr)
  · exact admitRequest_right (h.emptied p) hr (not_mem_of_tagOutstanding ‹_›)

/-- The request that stands in a place can be presented. -/
theorem OutstandingRight.presentable {p : Port} {r : Request} {s : State} (h : OutstandingRight s)
    (hp : placeRequest (portOf p s).place = some r) : presentable r = true :=
  (((outstandingRight_iff s).1 h).2.1 p).1 r hp

theorem routeAgain_right {p : Port} {r : Request} {s : State} (h : OutstandingRight s)
    (hr : Machine.presentable r = true) : OutstandingRight (routeAgain p r s) := by
  unfold routeAgain
  split
  · exact routeSurface_right (h.emptied p) hr
  · exact routeRaw_right (h.emptied p) hr

theorem admitWaiting_right {p : Port} {s : State} (h : OutstandingRight s) : OutstandingRight (admitWaiting p s) := by
  unfold admitWaiting
  split
  · rename_i r hp
    obtain ⟨-, hw, -⟩ := (outstandingRight_iff s).1 h
    exact admitRequest_right (h.emptied p) (h.presentable (p := p) (by rw [hp]; rfl)) ((hw p).2 r hp).1
  · exact h

theorem endWait_right {p : Port} {s u : State} (h : OutstandingRight s) (he : endWait p s = some u) :
    OutstandingRight u := by
  have hr : ∀ r, placeRequest (portOf p s).place = some r → presentable r = true := fun r => h.presentable
  obtain ⟨-, hw, -⟩ := (outstandingRight_iff s).1 h
  unfold endWait at he
  split at he
  · cases he
  · rename_i r abort hp
    repeat' split at he
    all_goals cases he
    · refine (makeReady_requests _ _ _).right ?_
      have e : markTag p r.tag (setPlace p .empty s) = setPlace p .empty (markTag p r.tag s) := by
        simp [markTag, setPlace]
      rw [e]
      exact (h.emptied p).marked
    · exact admitRequest_right (h.emptied p) (hr r (by rw [hp]; rfl)) (not_mem_of_tagOutstanding ‹_›)
  · rename_i r hp
    split at he <;> cases he
    exact admitRequest_right (h.emptied p) (hr r (by rw [hp]; rfl)) ((hw p).2 r hp).1
  · rename_i r hp
    split at he <;> cases he
    exact routeAgain_right h (hr r (by rw [hp]; rfl))
  · rename_i r hp
    split at he <;> cases he
    exact routeAgain_right h (hr r (by rw [hp]; rfl))

theorem checkEnds_right {p : Port} {s : State} (h : OutstandingRight s) : OutstandingRight (checkEnds p s) := by
  have committed : KeepsRequests s (bootCommit (takeBootTable s)) :=
    (beginTransition_requests _ _ _ _).after <| .of_eq (by simp) (by simp) (by simp) (by simp)
  unfold checkEnds
  have admitted := admitWaiting_right (p := otherPort p) (admitWaiting_right (p := p) (committed.right h))
  refine KeepsRequests.right ?_ admitted
  exact .of_eq (by simp [onBoot]) (by simp [onBoot]) (by simp [onBoot]) (by simp [onBoot])

/-! ## Sending (R2, R107) -/

/-- R2, R45: the tag sent is free and its context gone, so the contexts that stay are those of the other tags. -/
theorem sent_contexts {p : Port} {tag : Tag} {q : PortState} {s : State} (h : ContextsRight s)
    (hq : q.tags = (portOf p s).tags.erase tag) : ContextsRight (dropContext (p, tag) (setPort p q s)) := by
  obtain ⟨hn, hc⟩ := h
  refine ⟨?_, fun c hmem => ?_⟩
  · simp only [dropContext, setPort_contexts]
    exact hn.sublist (List.filter_sublist.map _)
  · simp only [dropContext, setPort_contexts, List.mem_filter, Bool.not_eq_true', Bool.and_eq_false_imp,
      beq_iff_eq] at hmem
    obtain ⟨hmem, hne⟩ := hmem
    have hport : portOf c.port (dropContext (p, tag) (setPort p q s)) = portOf c.port (setPort p q s) := by
      cases c.port <;> rfl
    rw [hport]
    by_cases hp : c.port = p
    · rw [hp, portOf_setPort, hq]
      have hne : c.tag ≠ tag := by simpa using hne hp
      exact (List.mem_erase_of_ne hne).2 (hp ▸ hc c hmem)
    · rw [portOf_setPort_other _ hp]
      exact hc c hmem

/-- R19: the request that RESTART marked holds its tag and leaves its place EMPTY. -/
theorem abortAfterTag_right {p : Port} {tag : Tag} {s : State} (h : OutstandingRight s) :
    OutstandingRight (abortAfterTag p tag s) := by
  unfold abortAfterTag
  repeat' split
  · refine (makeReady_requests _ _ _).right ?_
    have e : markTag p tag (setPlace p .empty s) = setPlace p .empty (markTag p tag s) := by
      simp [markTag, setPlace]
    rw [e]
    exact (h.emptied p).marked
  · exact h
  · exact h

theorem sendResponse_right {p : Port} {rr : ReadyResponse} {s : State} (h : OutstandingRight s) :
    OutstandingRight (sendResponse p rr s) := by
  obtain ⟨hc, hw, ho, hd⟩ := (outstandingRight_iff s).1 h
  unfold sendResponse
  dsimp only
  refine abortAfterTag_right ?_
  generalize hq : ({ portOf p s with
    ready := withoutSent rr.response.tag (portOf p s).ready, tags := (portOf p s).tags.erase rr.response.tag
    sent := some rr.response } : PortState) = q
  have hcs := sent_contexts (tag := rr.response.tag) (q := q) hc (by rw [← hq])
  obtain ⟨x, hx⟩ : ∃ x, x = reportSent p rr (dropContext (p, rr.response.tag) (setPort p q s)) := ⟨_, rfl⟩
  have hxp : ∀ o, portOf o x = portOf o (setPort p q s) := fun o => by
    rw [hx]; cases o <;> simp [portOf, dropContext]
  have hxc : x.contexts = (dropContext (p, rr.response.tag) (setPort p q s)).contexts := by rw [hx]; simp
  have hxk : x.ctrl = s.ctrl := by rw [hx]; simp [dropContext]
  rw [← hx]
  refine (outstandingRight_iff _).2 ⟨?_, fun o => ?_, leaveOldWrites_old (fun k hk hne => ?_) (by rw [hxk]; exact hd)⟩
  · refine ⟨by simpa [hxc] using hcs.1, fun c hmem => ?_⟩
    have hport : portOf c.port (leaveOldWrites (p, rr.response.tag) x) = portOf c.port (setPort p q s) := by
      rw [← hxp]; cases c.port <;> simp [portOf]
    have hin := hcs.2 c (by simpa [hxc] using hmem)
    rw [hport]
    cases hcp : c.port <;> rw [hcp] at hin <;> exact hin
  · have hport : portOf o (leaveOldWrites (p, rr.response.tag) x) = portOf o (setPort p q s) := by
      rw [← hxp]; cases o <;> simp [portOf]
    rw [hport]
    by_cases hop : o = p
    · subst hop
      obtain ⟨h1, h2⟩ := hw o
      rw [portOf_setPort, ← hq]
      exact ⟨h1, fun r hr => ⟨fun hm => (h2 r hr).1 (List.mem_of_mem_erase hm), (h2 r hr).2⟩⟩
    · rw [portOf_setPort_other _ hop]
      exact hw o
  · obtain ⟨c, hmem, hk, hkey⟩ := mem_outstandingWrites.1 (ho k (hxk ▸ hk))
    refine mem_outstandingWrites.2 ⟨c, ?_, hk, hkey⟩
    rw [hxc]
    simp only [dropContext, setPort_contexts, List.mem_filter, Bool.not_eq_true', Bool.and_eq_false_imp, beq_iff_eq]
    refine ⟨hmem, fun hcp => ?_⟩
    simp only [beq_eq_false_iff_ne]
    rintro hct
    exact hne (by rw [← hkey, hcp, hct])

/-! ## Fragments (R45, R63) -/

/-- The context found is one of those held, under the name asked for. -/
theorem contextOf_some {key : Key} {c : Context} {s : State} (h : contextOf key s = some c) :
    c ∈ s.contexts ∧ c.port = key.1 ∧ c.tag = key.2 := by
  have hb := List.find?_some h
  simp only [Bool.and_eq_true, beq_iff_eq] at hb
  exact ⟨List.mem_of_find?_eq_some h, hb⟩

/-- R45: a name has one context. -/
theorem ContextsRight.unique {s : State} (h : ContextsRight s) {c d : Context} (hc : c ∈ s.contexts)
    (hd : d ∈ s.contexts) (hp : d.port = c.port) (ht : d.tag = c.tag) : d = c :=
  List.inj_on_of_nodup_map h.1 hd hc (by rw [hp, ht])

/-- R45: a context may take the place of the one with its name and kind. -/
theorem putContext_right {c d : Context} {s : State} (h : OutstandingRight s) (hd : d ∈ s.contexts)
    (hp : c.port = d.port) (ht : c.tag = d.tag) (hk : c.kind = d.kind) : OutstandingRight (putContext c s) := by
  obtain ⟨hcs, hw, ho, hs⟩ := (outstandingRight_iff s).1 h
  have hport : ∀ o, portOf o (putContext c s) = portOf o s := fun o => by cases o <;> rfl
  have named : ∀ e : Context, ((if e.port = c.port ∧ e.tag = c.tag then c else e).port,
      (if e.port = c.port ∧ e.tag = c.tag then c else e).tag) = (e.port, e.tag) := fun e => by
    split
    · rename_i h; rw [h.1, h.2]
    · rfl
  refine (outstandingRight_iff _).2 ⟨⟨?_, fun e he => ?_⟩, fun o => by rw [hport]; exact hw o, fun k hmem => ?_, hs⟩
  · simp only [putContext, List.map_map, Function.comp_def, named]
    exact hcs.1
  · simp only [putContext, List.mem_map] at he
    obtain ⟨e', he', rfl⟩ := he
    have hn := named e'
    simp only [Prod.mk.injEq] at hn
    rw [hport, hn.1, hn.2]
    exact hcs.2 e' he'
  · obtain ⟨e, he, hkind, hkey⟩ := mem_outstandingWrites.1 (ho k hmem)
    refine mem_outstandingWrites.2 ⟨_, List.mem_map.2 ⟨e, he, rfl⟩, ?_, (named e).trans hkey⟩
    split
    · rename_i hn
      rw [hk, ← hcs.unique hd he (hn.1.trans hp) (hn.2.trans ht)]
      exact hkind
    · exact hkind

theorem setFragment_right {key : Key} {c : Context} {i : Nat} {f : Fragment → Fragment} {s : State}
    (h : OutstandingRight s) (hc : contextOf key s = some c) : OutstandingRight (putContext (setFragment c i f) s) :=
  putContext_right h (contextOf_some hc).1 rfl rfl rfl

theorem Issued.right {s t : State} (i : Issued s t) (h : OutstandingRight s) : OutstandingRight t := by
  cases i with
  | forward p => exact (popPath_requests p s).right h
  | fragment _ _ hc => exact setFragment_right h hc
  | lastFragment _ _ hc => exact (popPath_requests _ _).right (setFragment_right h hc)
  | row | load | record => exact KeepsRequests.right (.of_eq rfl rfl rfl rfl) h

theorem fragmentAnswered_right {key : Key} {i : Nat} {a : Answer} {s : State} (h : OutstandingRight s) :
    OutstandingRight (fragmentAnswered key i a s) := by
  unfold fragmentAnswered
  split
  · exact h
  · rename_i c hc
    dsimp only
    split
    · exact (makeReady_requests _ _ _).right (setFragment_right h hc)
    · exact setFragment_right h hc

/-! ## Every event -/

theorem popInFlight_requests (s : State) : KeepsRequests s (popInFlight s) := .of_eq rfl rfl rfl rfl

theorem clockAt_requests (time : Nat) (s : State) : KeepsRequests s (clockAt time s) := .of_eq rfl rfl rfl rfl

theorem Event.right {c : Instr} {s u : State} (e : Event s c u) (h : OutstandingRight s) : OutstandingRight u := by
  have answer := (popInFlight_requests s).right h
  cases e with
  | presented _ _ hr => exact presentRequest_right h hr
  | waitEnds he => exact endWait_right h he
  | sent => exact sendResponse_right h
  | granted _ hi =>
    exact KeepsRequests.right (.of_eq rfl rfl rfl rfl) ((requesterIssue_issued hi).right h)
  | fragmentAnswer => exact fragmentAnswered_right answer
  | forwardedAnswer => exact (makeReady_requests _ _ _).right answer
  | rowWriteAnswer => exact (rowWriteAnswered_requests _ _ _ _).right answer
  | discardedAnswer => exact (dropAnswer_requests _ _).right answer
  | loaderReadAnswer => exact (loadAnswer_requests _ _ _).right answer
  | rowReadAnswer | recordWriteAnswer | responseWriteAnswer | countsWriteAnswer =>
    exact KeepsRequests.right (.of_eq (by simp) (by simp) (by simp) (by simp)) answer
  | settleTimer => exact ((settleExpires_requests _ _).after (clockAt_requests _ s)).right h
  | fallbackTimer => exact ((fallbackExpires_requests _).after (clockAt_requests _ s)).right h
  | frameStart => exact ((frameStarts_requests _).after (clockAt_requests _ s)).right h
  | lossTimer => exact ((lossTimerExpires_requests _).after (clockAt_requests _ s)).right h
  | sensorReply =>
    refine KeepsRequests.right (.of_eq ?_ ?_ ?_ ?_) h <;> simp only [judgePoll] <;> split <;> simp [clockAt]
  | pollRound | replyTimeout =>
    exact KeepsRequests.right (.of_eq (by simp [clockAt]) (by simp [clockAt]) (by simp [clockAt]) (by simp [clockAt])) h
  | bootHead | bootBody => exact KeepsRequests.right (.of_eq (by simp) (by simp) (by simp) (by simp)) h
  | bootCheck => exact checkEnds_right h

theorem reset_outstandingRight {s : State} (h0 : s.up0 = PortState.reset) (h1 : s.up1 = PortState.reset)
    (hc : s.contexts = []) (hk : s.ctrl = Controller.reset) : OutstandingRight s := by
  refine (outstandingRight_iff s).2 ⟨by simp [ContextsRight, hc], fun p => placeRight_empty ?_, ?_⟩
  · cases p <;> simp [portOf, h0, h1, PortState.reset]
  · simp [OldWritesRight, hk, Controller.reset]

theorem exec_outstandingRight {c : Instr} {s t : State} (h : OutstandingRight s) (he : exec c s = .next t) :
    OutstandingRight t := by
  rcases exec_event he with rfl | rfl | ⟨u, e, rfl⟩
  · rw [resetNAssert_next he]
    exact KeepsRequests.right (.of_eq rfl rfl rfl rfl) h
  · rw [resetNRelease_next he]
    exact reset_outstandingRight rfl rfl rfl rfl
  · exact KeepsRequests.right (.of_eq rfl rfl rfl rfl) (e.right h)

/-- Settles O55: each event keeps the contexts, the places and the old-write set right (`Event.right`). -/
theorem outstandingStaysRight : Obligations.OutstandingStaysRight := by
  intro s t _ h he
  unfold step at he
  cases hp : s.pending with
  | nil =>
    simp only [hp, Host.Outcome.next.injEq] at he
    exact he ▸ h
  | cons c rest =>
    simp only [hp] at he
    have waiting : KeepsRequests s { s with pending := rest } := .of_eq rfl rfl rfl rfl
    exact exec_outstandingRight (waiting.right h) he

end Sys2Proof.Machine
end

section
/-!
O58: the generation counts commits, and no event makes two (R102, R106).
-/
namespace Sys2Proof.Machine

/-- R102, R106: from `s` to `t` the generation is as it was, or one commit has raised it. -/
def CommitsOnce (s t : State) : Prop :=
  t.ctrl.generation = s.ctrl.generation ∨
    (t.ctrl.generation = s.ctrl.generation + 1 ∧ kindPending t.notice.set .transitionBegun = true ∧
      t.ctrl.target.isSome = true)

theorem CommitsOnce.of_ctrl {s t : State} (h : t.ctrl = s.ctrl) : CommitsOnce s t := .inl (by rw [h])

/-- What comes before the commit leaves the generation alone. -/
theorem CommitsOnce.after {s t u : State} (g : CommitsOnce t u) (h : t.ctrl.generation = s.ctrl.generation) :
    CommitsOnce s u := by
  unfold CommitsOnce; rw [← h]; exact g

/-- What comes after the commit leaves the controller alone and keeps the kinds raised. -/
theorem CommitsOnce.next {s t u : State} (h : CommitsOnce s t) (hc : u.ctrl = t.ctrl)
    (hk : kindPending t.notice.set .transitionBegun = true → kindPending u.notice.set .transitionBegun = true) :
    CommitsOnce s u := by
  unfold CommitsOnce; rw [hc]; exact h.imp_right fun ⟨hg, hp, ht⟩ => ⟨hg, hk hp, ht⟩

theorem CommitsOnce.raise {s t : State} (h : CommitsOnce s t) (k : NoticeKind) : CommitsOnce s (raise k t) :=
  h.next rfl fun hp => by simp [hp]

theorem CommitsOnce.respond {s t : State} (h : CommitsOnce s t) (q : Byte) (r : CommandResult) (d : BitVec 16) :
    CommitsOnce s (respond q r d t) :=
  h.next rfl id

/-- R106: a commit adds 1, raises TRANSITION_BEGUN and leaves a target. -/
theorem beginTransition_once (d : DrainKind) (r : RecordCopy) (o : Option RecordCopy) (s : State) :
    CommitsOnce s (beginTransition d r o s) := by
  obtain ⟨⟨-, hc, -, -, hn, -⟩, -⟩ := beginTransition_spec d r o s
  exact .inr ⟨by rw [hc], by simp [hn.1], by simp [hc]⟩

theorem commitLayout_once (n : Nat) (s : State) : CommitsOnce s (commitLayout n s) := by
  unfold commitLayout
  repeat' split
  · exact .inl rfl
  · exact .inl rfl
  · exact beginTransition_once _ _ _ s

theorem resolveSlot_once (s : State) : CommitsOnce s (resolveSlot s) := by
  unfold resolveSlot
  split
  · exact .inl rfl
  · exact (commitLayout_once _ _).after rfl

theorem flip_once (s : State) : CommitsOnce s (flip s) := by
  rw [flip_eq]
  exact (resolveSlot_once _).after rfl

theorem completionTest_once (s : State) : CommitsOnce s (completionTest s) := by
  rw [completionTest_spec]
  repeat' split
  · exact (flip_once _).after rfl
  · exact .inl rfl
  · exact .inl rfl

theorem leaveOldWrites_once (key : Key) (s : State) : CommitsOnce s (leaveOldWrites key s) := by
  unfold leaveOldWrites enterRelocating
  dsimp only
  repeat' split
  · exact (completionTest_once _).after (by simp)
  · exact .inl rfl
  · exact .inl rfl

theorem slotRequest_generation (c : Option Nat) (n : Nat) (s : State) :
    (slotRequest c n s).ctrl.generation = s.ctrl.generation := by
  rw [slotRequest_eq]; rfl

theorem layoutRequest_once (n : Nat) (s : State) : CommitsOnce s (layoutRequest n s) := by
  unfold layoutRequest
  repeat' split
  · exact .inl rfl
  · exact .inl (slotRequest_generation _ n s)
  · exact .inl rfl
  · exact commitLayout_once n s
  all_goals exact .inl (slotRequest_generation _ n s)

/-! ## The table load -/

theorem endLoadReplaced_once (t : Table) (s : State) : CommitsOnce s (endLoadReplaced t s) := by
  unfold endLoadReplaced
  dsimp only
  split
  · exact (beginTransition_once _ _ _ _).after rfl
  · exact (resolveSlot_once _).after rfl

theorem endLoadKept_once (s : State) : CommitsOnce s (endLoadKept s) := (resolveSlot_once _).after rfl

theorem endLoadRejected_once (q : Byte) (r : CommandResult) (d : BitVec 16) (s : State) :
    CommitsOnce s (endLoadRejected q r d s) :=
  ((endLoadKept_once s).raise .tableRejected).respond q r d

theorem endLoadTaken_once (q : Byte) (t : Table) (s : State) : CommitsOnce s (endLoadTaken q t s) := by
  unfold endLoadTaken
  exact (((endLoadReplaced_once t _).after (by simp)).raise _).respond _ _ _

theorem endLoad_once (l : TableLoad) (s : State) : CommitsOnce s (endLoad l s) := by
  unfold endLoad
  dsimp only
  generalize (if l.awaitingHead = true then l.bytes else l.bytes.take l.length) = img
  repeat' split
  · exact (endLoadRejected_once _ _ _ _).after rfl
  · exact (endLoadRejected_once _ _ _ _).after rfl
  · exact (endLoadRejected_once _ _ _ _).after rfl
  · exact (endLoadTaken_once _ _ _).after rfl

theorem loadAnswer_once (l : TableLoad) (a : Answer) (s : State) : CommitsOnce s (loadAnswer l a s) := by
  unfold loadAnswer
  dsimp only
  repeat' split
  · exact (endLoad_once _ _).after (by simp)
  · exact .of_ctrl (by simp)
  · exact endLoad_once _ s
  · exact .inl rfl
  · exact endLoad_once _ s
  · exact .inl rfl

/-! ## Commands -/

/-- R118: RESTART outside LOADING makes its one commit; in LOADING it makes none. -/
theorem takeRestart_once (q : Byte) (s : State) : CommitsOnce s (takeRestart q s) := by
  unfold takeRestart
  split
  · exact .of_ctrl (by simp [restartLoading, monitorRestart])
  · exact ((beginTransition_once _ _ _ _).after (by simp [monitorRestart, abandonLoad])).respond _ _ _

theorem runCommand_once (q c : Byte) (a : BitVec 16) (s : State) : CommitsOnce s (runCommand q c a s) := by
  unfold runCommand takePublish takeForce takeRelease takeReport
  repeat' split
  · exact .inl rfl
  · exact .inl rfl
  · exact .inl rfl
  · exact ((layoutRequest_once _ _).after rfl).respond _ _ _
  · exact .inl rfl
  · exact .inl rfl
  · exact .of_ctrl (by simp)
  · exact .inl rfl
  · exact .inl rfl
  · exact takeRestart_once q s
  · exact .inl rfl

theorem reportWatched_once (p : Port) (r : Request) (s : State) : CommitsOnce s (reportWatched p r s) := by
  have notice : (match wordWrittenAt r noticeRecordAddress with
      | some w => reportNoticeWrite p r w s
      | none => s).ctrl = s.ctrl := by
    split
    · simp
    · rfl
  have table : ∀ x : State, (if writesTableArea r then reportTableWrite x else x).ctrl = x.ctrl := fun x => by
    split <;> rfl
  have same := (table _).trans notice
  unfold reportWatched
  dsimp only
  generalize (if writesTableArea r then reportTableWrite _ else _) = u at same ⊢
  unfold reportCommandWord
  repeat' split
  · exact .of_ctrl same
  · exact (runCommand_once _ _ _ _).after (by rw [onCmd_ctrl, same])
  · exact .of_ctrl same

/-! ## The intake -/

theorem admitRequest_once (p : Port) (r : Request) (s : State) : CommitsOnce s (admitRequest p r s) := by
  unfold admitRequest acceptRequest routeSystem
  repeat' split
  · exact .of_ctrl (by simp)
  · exact .of_ctrl (by simp)
  · exact .of_ctrl (by simp)
  · exact (reportWatched_once _ _ _).after (by simp)
  · exact .of_ctrl (by simp)

theorem presentRequest_once (p : Port) (r : Request) (s : State) : CommitsOnce s (presentRequest p r s) := by
  unfold presentRequest
  split
  · exact .of_ctrl (by simp)
  · exact admitRequest_once p r s

theorem endWait_once {p : Port} {s u : State} (h : endWait p s = some u) : CommitsOnce s u := by
  unfold endWait at h
  repeat' split at h
  all_goals cases h
  · exact .of_ctrl (by simp)
  · exact admitRequest_once p _ s
  · exact admitRequest_once p _ s
  · exact .of_ctrl (by simp)
  · exact .of_ctrl (by simp)

/-! ### The boot check, whose commit comes before the requests that waited for it -/

theorem enterHold_set (key : Key) (ts : List BankTile) (s : State) :
    (enterHold key ts s).notice.set = s.notice.set := by
  have promoted : ∀ u, (promoteTiles ts u).notice.set = u.notice.set := fun u => by
    rw [(promoteTiles_spec ts u).1]
  simp [enterHold, promoted]

/-- R7, R46: a surface request's reception raises and removes no kind. -/
theorem acceptSurface_set (p : Port) (k : Nat) (r : Request) (s : State) :
    (acceptSurface p k r s).notice.set = s.notice.set := by
  unfold acceptSurface routeSurface
  dsimp only
  repeat' split
  all_goals simp [enterHold_set]

/-- R8, R174: a request that waited for the table is a surface request, so its admission makes no commit. -/
theorem admitWaiting_waits {p : Port} {s t : State} (h : CommitsOnce s t)
    (hw : ∀ r, (portOf p t).place = .waitTable r → ∃ k, admittedWindow r = some (.surface k)) :
    CommitsOnce s (admitWaiting p t) := by
  unfold admitWaiting
  split
  · rename_i r hr
    obtain ⟨k, hk⟩ := hw r hr
    unfold admitRequest acceptRequest
    simp only [hk]
    split
    · exact h.next (by simp) (by simp)
    · exact h.next (by simp) (by rw [acceptSurface_set]; exact id)
  · exact h

/-- R7: the admission of a surface request leaves the other port alone. -/
theorem admitWaiting_otherPort {p : Port} {s : State}
    (hw : ∀ r, (portOf p s).place = .waitTable r → ∃ k, admittedWindow r = some (.surface k)) :
    portOf (otherPort p) (admitWaiting p s) = portOf (otherPort p) s := by
  unfold admitWaiting
  split
  · rename_i r hr
    obtain ⟨k, hk⟩ := hw r hr
    unfold admitRequest acceptRequest acceptSurface routeSurface
    simp only [hk]
    (repeat' split) <;> cases p <;> simp [portOf, otherPort, setPlace, joinPath, makeReady, markTag, setPort]
  · rfl

theorem checkEnds_once {p : Port} {s : State} (h : WaitsRight s) : CommitsOnce s (checkEnds p s) := by
  have committed : CommitsOnce s (bootCommit (takeBootTable s)) := (beginTransition_once _ _ _ _).after (by simp)
  have ports : ∀ o, portOf o (bootCommit (takeBootTable s)) = portOf o s := fun o => by cases o <;> simp [portOf]
  have waits : ∀ o r, (portOf o (bootCommit (takeBootTable s))).place = .waitTable r →
      ∃ k, admittedWindow r = some (.surface k) := fun o r hr => (h.2 o r (by rwa [ports] at hr)).2
  have one := admitWaiting_waits committed (waits p)
  have two := admitWaiting_waits (p := otherPort p) one fun r hr =>
    waits (otherPort p) r (by rwa [admitWaiting_otherPort (waits p)] at hr)
  exact two.next (by simp [checkEnds, onBoot]) (by simp [checkEnds, onBoot])

/-! ## Flips, timers and answers -/

theorem takeAwaitedFlip_once (s : State) : CommitsOnce s (takeAwaitedFlip s) := by
  unfold takeAwaitedFlip
  split
  · exact flip_once s
  · exact .inl rfl

theorem countBoundary_set (s : State) : (countBoundary s).notice.set = s.notice.set := by
  unfold countBoundary transferCounts
  dsimp only
  repeat' split
  all_goals rfl

theorem checkReturn_once {s t : State} (h : CommitsOnce s t) : CommitsOnce s (checkReturn t) := by
  unfold checkReturn
  repeat' split
  · exact (h.next rfl id).raise .panelTiming
  · exact h.next rfl id
  · exact h
  · exact h

theorem frameStarts_once (s : State) : CommitsOnce s (frameStarts s) := by
  have counted : CommitsOnce s (countBoundary (takeAwaitedFlip s)) :=
    (takeAwaitedFlip_once s).next (by simp) (by rw [countBoundary_set]; exact id)
  exact (checkReturn_once counted).next rfl id

theorem lossTimerExpires_once (s : State) : CommitsOnce s (lossTimerExpires s) := by
  unfold lossTimerExpires
  dsimp only
  split
  · exact .inl rfl
  · exact (takeAwaitedFlip_once _).after rfl

theorem settleExpires_once (n : Nat) (s : State) : CommitsOnce s (settleExpires n s) := by
  unfold settleExpires
  dsimp only
  split
  · exact (layoutRequest_once _ _).after rfl
  · exact .inl rfl

theorem fallbackExpires_once (s : State) : CommitsOnce s (fallbackExpires s) := by
  unfold fallbackExpires
  dsimp only
  repeat' split
  · exact .inl rfl
  · exact ((layoutRequest_once _ _).after rfl).raise .fallbackTaken
  · exact .inl rfl

theorem rowWriteAnswered_once (b : BufferId) (w : Writing) (a : Answer) (s : State) :
    CommitsOnce s (rowWriteAnswered b w a s) := by
  have counted : (if (answerOk a || w.failure) = true then s else countMemoryError s).ctrl = s.ctrl := by split <;> rfl
  unfold rowWriteAnswered endTile
  dsimp only
  generalize (if (answerOk a || w.failure) = true then s else countMemoryError s) = u at counted ⊢
  split
  · exact (completionTest_once _).after (by simp [counted])
  · exact .of_ctrl counted

theorem dropAnswer_once (f : InFlight) (s : State) : CommitsOnce s (dropAnswer f s) := by
  unfold dropAnswer discardAnswered
  repeat' split
  · exact .inl rfl
  · exact (completionTest_once _).after (by simp)
  · exact .inl rfl
  · exact .inl rfl
  · exact .of_ctrl (by simp)
  · exact .inl rfl

/-- R19: the answer to the request RESTART marked belongs to its port alone. -/
theorem CommitsOnce.abortAfterTag {s t : State} (h : CommitsOnce s t) (p : Port) (tag : Tag) :
    CommitsOnce s (abortAfterTag p tag t) :=
  h.next (by simp) (by simp)

theorem sendResponse_once (p : Port) (r : ReadyResponse) (s : State) : CommitsOnce s (sendResponse p r s) := by
  unfold sendResponse
  dsimp only
  exact ((leaveOldWrites_once _ _).after (by simp [dropContext])).abortAfterTag _ _

theorem Issued.ctrl {s t : State} (i : Issued s t) : t.ctrl = s.ctrl := by
  cases i <;> simp [popPath, putContext]

/-! ## Every step -/

/-- R106: an event makes one commit or none. -/
theorem Event.once {c : Instr} {s u : State} (e : Event s c u) (h : WaitsRight s) : CommitsOnce s u := by
  cases e with
  | presented => exact presentRequest_once _ _ s
  | waitEnds he => exact endWait_once he
  | sent => exact sendResponse_once _ _ s
  | granted _ hi => exact .of_ctrl (requesterIssue_issued hi).ctrl
  | rowWriteAnswer => exact (rowWriteAnswered_once _ _ _ _).after rfl
  | discardedAnswer => exact (dropAnswer_once _ _).after rfl
  | loaderReadAnswer => exact (loadAnswer_once _ _ _).after rfl
  | fragmentAnswer | forwardedAnswer | rowReadAnswer | recordWriteAnswer | responseWriteAnswer | countsWriteAnswer =>
    exact .of_ctrl (by simp [popInFlight])
  | settleTimer => exact (settleExpires_once _ _).after rfl
  | fallbackTimer => exact (fallbackExpires_once _).after rfl
  | frameStart => exact (frameStarts_once _).after rfl
  | lossTimer => exact (lossTimerExpires_once _).after rfl
  | sensorReply => exact .of_ctrl (by simp only [judgePoll]; split <;> simp [clockAt])
  | pollRound | replyTimeout => exact .of_ctrl (by simp [clockAt])
  | bootHead | bootBody => exact .of_ctrl (by simp)
  | bootCheck => exact checkEnds_once h

/-- Settles O58: a step changes the generation by its one commit (`Event.once`). -/
theorem onlyACommitRaisesTheGeneration : Obligations.OnlyACommitRaisesTheGeneration := by
  intro c s t hw hc he hne
  rcases exec_event he with rfl | rfl | ⟨u, e, rfl⟩
  · rw [resetNAssert_next he] at hne
    exact absurd rfl hne
  · exact absurd rfl hc
  · have once : CommitsOnce s (settleOutputs s u) := (e.once hw).next rfl (by simp)
    exact once.resolve_left hne

end Sys2Proof.Machine
end

section
/-!
O2, O3, O51: the two commands of RESET_N and the reset state (R18, R97, R101, R171).
-/
namespace Sys2Proof.Machine

/-! ## RESET_N_ASSERT -/

/-- Log 8: while RESET_N is asserted only its release takes place. -/
theorem exec_released {c : Instr} {s t : State} (hc : c ≠ .resetNRelease) (h : exec c s = .next t) : Released s := by
  have run : ∀ {k}, whileReleased s k = .next t → Released s := fun hk => ((whileReleased_next s).1 hk).1
  cases c with
  | resetNRelease => exact absurd rfl hc
  | systemWindowWrite | tableAreaWrite | noticeRecordWrite | badCommand =>
    simp only [exec, execSystemWindowWrite, execTableAreaWrite, execNoticeRecordWrite, execBadCommand] at h
    split at h
    · exact run h
    · cases h
  | _ => exact run h

/-- Settles O2: `resetNAssert_next` says what is left, and nothing but the release follows (`exec_released`). -/
theorem resetAssertAbandonsAndRests : Obligations.ResetAssertAbandonsAndRests := by
  intro s hs
  obtain ⟨t, ht⟩ : ∃ t, exec .resetNAssert s = .next t := ⟨_, hs.run _⟩
  have e := resetNAssert_next ht
  refine ⟨t, ht, by rw [e]; rfl, by rw [e]; rfl, fun h => ?_, fun h => ?_, fun c hc u hu => ?_⟩
  · rw [e, h]
  · obtain ⟨x, hx⟩ := Option.ne_none_iff_exists'.1 h
    rw [e, hx]
  · have released : Released t := exec_released hc hu
    rw [e] at released
    cases released

/-! ## RESET_N_RELEASE -/

/-- Settles O3: the release leaves the reset state, with what was in flight marked and the queue of commands kept. -/
theorem resetReleaseSetsEveryBlock : Obligations.ResetReleaseSetsEveryBlock := by
  intro s hs
  obtain ⟨t, ht⟩ : ∃ t, exec .resetNRelease s = .next t := ⟨_, by simp only [exec, execResetNRelease, hs, if_true]; rfl⟩
  refine ⟨t, ht, ?_⟩
  rw [resetNRelease_next ht]
  have counters : ∀ i, counterOf NoticeUnit.reset.counters i = { value := 0, saturated := false } := counterOf_zero
  refine ⟨fun p => by cases p <;> exact ⟨rfl, rfl, rfl, rfl⟩, rfl, by simp [staleInFlight], ?_, ?_, rfl,
    fun h => by cases h <;> rfl, rfl, rfl, rfl, rfl, rfl, rfl, rfl, rfl, rfl, rfl, rfl, rfl, rfl, rfl, rfl, rfl, rfl, rfl,
    rfl, rfl, counters, rfl, rfl, rfl, rfl, rfl, rfl, rfl, rfl, rfl, rfl⟩
  · simp [staleInFlight]
  · simp [staleInFlight]

/-! ## The reset state -/

/-- R125: every entry of the reset map is DONE. -/
theorem reset_entryAt (t : Tile) : entryAt State.reset.engine.map t = .done := by
  unfold entryAt
  simp only [State.reset, Engine.reset, List.getD_eq_getElem?_getD, List.getElem?_replicate]
  split <;> rfl

/-- R101, R112: the controller, the command block and the engine at the reset values. -/
theorem reset_transitionRight : TransitionRight State.reset where
  records := ⟨by decide, nofun, fun _ => ⟨rfl, rfl⟩⟩
  boot := ⟨by decide, by decide⟩
  load := ⟨⟨nofun, nofun⟩, nofun⟩
  slot := nofun
  map := ⟨List.length_replicate, fun _ _ =>
    ⟨List.all_eq_true.2 fun _ h => by rw [List.eq_of_mem_replicate h]; rfl, rfl, rfl, rfl⟩⟩

/-- R125, R131: no tile is touched, queued or in operation at the reset values. -/
theorem reset_tilesRight : TilesRight State.reset where
  touched := nofun
  queued := nofun
  moving := fun t m b _ h => by rw [reset_entryAt] at h; cases h
  filling := fun t k b _ h => by rw [reset_entryAt] at h; cases h
  reading := fun b r h => by cases b <;> cases h
  writing := fun b w h => by cases b <;> cases h

/-- Settles O51: every block's invariant at its reset values. -/
theorem resetStateIsRight : Obligations.ResetStateIsRight := by
  refine ⟨⟨nofun, ?_⟩, reset_countersRight, reset_hingesRight, ⟨?_, ?_, ?_, .nil⟩, ?_,
    reset_readyRight, reset_transitionRight, reset_outstandingRight rfl rfl rfl rfl, ⟨nofun, nofun, nofun, nofun⟩,
    reset_tilesRight⟩
  · rintro ⟨t, k, h, -⟩; cases h
  · decide
  · decide
  · decide
  · unfold ClockRight; decide

end Sys2Proof.Machine
end

section
/-!
O4, O5: the windows of an address and the requests that none admits (R4, R5).
-/
namespace Sys2Proof.Machine

/-- Settles O4: R4's ranges are the branches of `windowOf`, one after the other. -/
theorem addressesAreClassified : Obligations.AddressesAreClassified := by
  intro a ha
  unfold windowOf
  repeat' split
  all_goals
    simp only [Option.some.injEq, reduceCtorEq, false_iff, true_iff, Window.surface.injEq]
    refine ⟨?_, ?_, fun k => ?_, ?_⟩ <;> omega

/-- R5: the three cases of refusal are the branches that accept no request. -/
theorem admittedWindow_none {r : Request} : admittedWindow r = none ↔
    windowOf r.address.toNat = none ∨ r.address.toNat % 4 ≠ 0 ∨
      ∃ w, windowOf r.address.toNat = some w ∧ windowLast w < r.address.toNat + 4 * bodyCount r.body - 1 := by
  unfold admittedWindow lastByte
  cases windowOf r.address.toNat with
  | none => simp
  | some w =>
    dsimp only
    split
    · simp [*]
    · split <;> simp_all

/-- R2: count zero pixels for a READ, nothing for a WRITE. -/
theorem zeroData_eq (b : Body) : zeroData b = if bodyKind b = .read then List.replicate (bodyCount b) 0 else [] := by
  cases b <;> rfl

/-- R2: one response that becomes ready is a group of its own at the end. -/
theorem makeReady_eq (p : Port) (rr : ReadyResponse) (s : State) :
    makeReady p rr s = setPort p { portOf p s with ready := (portOf p s).ready ++ [[rr]] } s := rfl

/-- R5: the part with a refused request's ADDRERR ready, its tag outstanding and its place EMPTY. -/
theorem refuseRequest_eq (p : Port) (r : Request) (s : State) :
    refuseRequest p r s = countEvent .addressErrors 1 (setPort p { portOf p s with
      place := .empty
      tags := (portOf p s).tags ++ [r.tag]
      ready := (portOf p s).ready ++ [[{
        response := { tag := r.tag, result := .addrErr
                      data := if bodyKind r.body = .read then List.replicate (bodyCount r.body) 0 else [] }
        origin := .refused }]] } s) := by
  rw [← zeroData_eq]
  cases p <;> rfl

/-- R6 step 1: a request whose tag is outstanding waits for it. -/
theorem present_waitTag {p : Port} {r : Request} {s : State} (h : Released s) (hp : presentable r = true)
    (he : (portOf p s).place = .empty) (ht : tagOutstanding p r.tag s = true) :
    present p r s = .next (settleOutputs s (setPlace p (.waitTag r false) s)) := by
  simp [present, h.run, hp, happens, presentRequest, he, ht]

/-- R8: a wait whose cause has passed ends with what `endWait` leaves. -/
theorem intakeWaitEnd_next {p : Port} {s u : State} (h : Released s) (he : endWait p s = some u) :
    exec (.intakeWaitEnd p) s = .next (settleOutputs s u) := by
  simp only [exec, execIntakeWaitEnd, h.run, he, happens]

/-- R8: a wait whose cause stands does not end. -/
theorem intakeWaitEnd_refused {p : Port} {s : State} (h : Released s) (he : endWait p s = none) :
    exec (.intakeWaitEnd p) s = .refused .stillWaiting := by
  simp only [exec, execIntakeWaitEnd, h.run, he]

/-- R8: the wait for a tag ends when the tag is free. -/
theorem endWait_tagFree {p : Port} {r : Request} {s : State} (hp : (portOf p s).place = .waitTag r false)
    (ht : tagOutstanding p r.tag s = false) : endWait p s = some (admitRequest p r s) := by
  simp [endWait, hp, ht]

/-- Settles O5: what no window admits is refused when it comes to the window tests, at once or after its tag. -/
theorem refusedRequestIsAnsweredAddrErr : Obligations.RefusedRequestIsAnsweredAddrErr := by
  refine ⟨fun r _ => admittedWindow_none, fun p r s =>
    ⟨fun hr ht hp hw => ?_, fun ht hr hp he => present_waitTag hr hp he ht, fun hp ht hr hw => ?_⟩⟩
  · have refused : present p r s = .next (settleOutputs s (refuseRequest p r s)) := by
      rw [present_takes hr hp ht, admitRequest, hw]
    have place := ht.1
    refine refused.trans ?_
    rw [refuseRequest_eq, ← place]
  · rw [intakeWaitEnd_next hr (endWait_tagFree hp ht), admitRequest, hw]
    exact congrArg _ (congrArg _ (refuseRequest_eq p r s))

end Sys2Proof.Machine
end

section
/-!
O16, O17, O22: the answers of the memory path (R9, R16, R18, R63, R64, R152, R160).
-/
namespace Sys2Proof.Machine

/-! ## Fragments (R63, R64) -/

/-- Every fragment has been answered, or one has not. -/
theorem allAnswered_iff (c : Context) :
    (allAnswered c = true ↔ ∀ g ∈ c.fragments, g.state = .ok ∨ g.state = .failed) ∧
      (allAnswered c = false ↔ ∃ g ∈ c.fragments, g.state = .notIssued ∨ g.state = .inFlight) := by
  have states : ∀ x : FragmentState, (x == .ok || x == .failed) = false ↔ x = .notIssued ∨ x = .inFlight := by
    intro x; cases x <;> decide
  refine ⟨by simp [allAnswered], ?_⟩
  simp only [allAnswered, List.all_eq_false, Bool.not_eq_true, states]

/-- R12, R63: MEMERR where a fragment is FAILED; where all have been answered, OKAY exactly where all are OK. -/
theorem fragmentsResult_iff (c : Context) (h : ∀ g ∈ c.fragments, g.state = .ok ∨ g.state = .failed) :
    (fragmentsResult c = .memErr ↔ ∃ g ∈ c.fragments, g.state = .failed) ∧
      (fragmentsResult c = .okay ↔ ∀ g ∈ c.fragments, g.state = .ok) := by
  unfold fragmentsResult
  by_cases hf : ∃ g ∈ c.fragments, g.state = .failed
  · obtain ⟨g, hg, hs⟩ := hf
    have any : (c.fragments.any fun f => f.state == .failed) = true := by simpa using ⟨g, hg, hs⟩
    refine ⟨by simp [any]; exact ⟨g, hg, hs⟩, ?_⟩
    simp only [any, if_true, reduceCtorEq, false_iff]
    exact fun hall => by rw [hall g hg] at hs; cases hs
  · have none : (c.fragments.any fun f => f.state == .failed) = false := by simpa using hf
    refine ⟨by simp [none, hf], ?_⟩
    simp only [none, Bool.false_eq_true, if_false, true_iff]
    exact fun g hg => (h g hg).resolve_right fun hs => hf ⟨g, hg, hs⟩

/-- R64: each pixel of the read data, by the pixel map. -/
theorem surfaceResponse_data (c : Context) {j : Nat} {e : Option (Nat × Nat)} (h : c.pixelMap[j]? = some e) :
    (surfaceResponse c).response.data[j]? = some (match e with
      | none => 0
      | some (n, at_) => match c.fragments[n]? with
        | some g => if g.state = .ok then g.got.getD at_ 0 else 0
        | none => 0) := by
  simp only [surfaceResponse, List.getElem?_map, h, Option.map_some, assemblePixel]
  rcases e with _ | ⟨n, k⟩
  · rfl
  · dsimp only
    cases c.fragments[n]? <;> rfl

/-- R63: an answered fragment's row hands the answer to the context of its request. -/
theorem fragmentAnswer_runs {a : Answer} {f : InFlight} {rest : List InFlight} {p : Port} {tag : Tag} {i : Nat}
    {c : Context} {s : State} (h : Released s) (hn : AnswerIsNext a f rest s) (hf : f.owner = .fragment p tag i)
    (hc : contextOf (p, tag) s = some c) :
    let d := setFragment c i (answerFragment a)
    let after := putContext d { s with dn := { s.dn with inFlight := rest } }
    exec (.fragmentAnswer a) s =
      .next (settleOutputs s (if allAnswered d then makeReady p (surfaceResponse d) after else after)) := by
  have hc' : contextOf (p, tag) { s with dn := { s.dn with inFlight := rest } } = some c := hc
  simp only [exec, execFragmentAnswer, h.run, withAnswer_examined hn, hf, popInFlight_examined hn, happens,
    fragmentAnswered, hc']

/-- Settles O16: the answer is recorded (`fragmentAnswer_runs`), and the last makes `surfaceResponse` ready. -/
theorem fragmentAnswerIsRecorded : Obligations.FragmentAnswerIsRecorded := by
  intro a f rest p tag i c s hr hn hf hc recorded after
  have run := fragmentAnswer_runs hr hn hf hc
  obtain ⟨d, hd⟩ : ∃ d, d = setFragment c i (answerFragment a) := ⟨_, rfl⟩
  have fragments : d.fragments = recorded := by rw [hd]; rfl
  have pixels : d.pixelMap = c.pixelMap := by rw [hd]; rfl
  have left : putContext d { s with dn := { s.dn with inFlight := rest } } = after := by rw [hd]; rfl
  obtain ⟨all, unanswered⟩ := allAnswered_iff d
  rw [fragments] at all unanswered
  simp only [← hd, left] at run
  refine ⟨fun h => ?_, fun h => ⟨surfaceResponse d, ?_, rfl, by rw [hd]; rfl, ?_⟩⟩
  · rw [run, unanswered.2 h]; rfl
  · rw [run, all.2 h]
    cases p <;> rfl
  · obtain ⟨failed, okay⟩ := fragmentsResult_iff d (by rw [fragments]; exact h)
    rw [fragments] at failed okay
    refine ⟨failed, okay, by simp [surfaceResponse, pixels], fun j e he => ?_⟩
    have data := surfaceResponse_data d (pixels ▸ he)
    rw [fragments] at data
    refine data.trans ?_
    rcases e with _ | ⟨n, k⟩ <;> rfl

/-! ## Forwarded requests (R9, R16) -/

/-- R9: the response of a forwarded request, by the kind of the request and the answer. -/
theorem forwardedResponse_eq (r : Request) (a : Answer) : forwardedResponse r a =
    { response := {
        tag := r.tag
        result := match a with
          | .ok _ => .okay
          | .memoryError => .memErr
        data := match bodyKind r.body, a with
          | .write, _ => []
          | .read, .ok data => data
          | .read, .memoryError => List.replicate (bodyCount r.body) 0 }
      origin := .forwarded r } := by
  unfold forwardedResponse
  cases r.body <;> cases a <;> rfl

/-- Settles O17: the answer's row makes `forwardedResponse` ready and touches no counter. -/
theorem forwardedAnswerIsReturned : Obligations.ForwardedAnswerIsReturned := by
  intro a f rest p r s hr hn hf
  simp only [exec, execForwardedAnswer, hr.run, withAnswer_examined hn, hf, popInFlight_examined hn, happens,
    makeReady_eq, forwardedResponse_eq]
  cases p <;> rfl

/-! ## Unexamined answers (R18, R152, R160) -/

/-- An unexamined answer leaves what its request's owner drops. -/
theorem discardedAnswer_runs {a : Answer} {f : InFlight} {rest : List InFlight} {s : State} (h : Released s)
    (hn : s.dn.inFlight = f :: rest) (hd : answerDiscarded s f = true) :
    exec (.discardedAnswer a) s =
      .next (settleOutputs s (dropAnswer f { s with dn := { s.dn with inFlight := rest } })) := by
  simp only [exec, execDiscardedAnswer, h.run, hn, hd, if_true, happens, popInFlight, List.tail_cons]

/-- Settles O22: the three owners whose answers are not examined, each by the branch of `dropAnswer` that drops it. -/
theorem discardedAnswerIsDropped : Obligations.DiscardedAnswerIsDropped := by
  intro a f rest s hr hn left
  refine ⟨fun hs => ?_, fun b n hs ho hb => ?_, fun l hs ho hl ha => ?_⟩
  · rw [discardedAnswer_runs hr hn (by simp [answerDiscarded, hs])]
    simp [dropAnswer, hs, left]
  · have drop : exec (.discardedAnswer a) s = .next (settleOutputs s (discardAnswered b n left)) := by
      have hb' : bufferOf b left.engine = .discarding n := hb
      rw [discardedAnswer_runs hr hn (by simp [answerDiscarded, ho, hb])]
      simp [dropAnswer, hs, ho, hb', left]
    refine ⟨fun h2 => ?_, fun h1 => ?_⟩
    · rw [drop, discardAnswered, if_neg (by omega)]; rfl
    · rw [drop, discardAnswered, if_pos h1]; rfl
  · rw [discardedAnswer_runs hr hn (by simp [answerDiscarded, ho, hl, ha])]
    simp [dropAnswer, hs, ho, dropLoadAnswer, onCmd, hl, left]

end Sys2Proof.Machine
end

section
/-!
O14, O15: the arbiter's order and what each requester issues (R9, R11, R13 to R15, R133 to R135, R155, R166, R177,
R178).
-/
namespace Sys2Proof.Machine

/-! ## The arbiter (R13, R14) -/

/-- R13: the five places in their cyclic order. -/
def arbiterPlaces : List Requester := [.path .up0, .path .up1, .relocation, .loader, .notice]

/-- R13: the search begins at the place after the last-granted one and goes once around. -/
theorem placesAfter_getElem? {last k : Nat} {r : Requester} (hr : arbiterPlaces[last]? = some r) (hk : k < 5) :
    (placesAfter r)[k]? = arbiterPlaces[(last + (k + 1)) % 5]? := by
  have hl : last < 5 := (List.getElem?_eq_some_iff.1 hr).1
  have all : ∀ (l : Fin 5) (k : Fin 5) (r : Requester), arbiterPlaces[l.val]? = some r →
      (placesAfter r)[k.val]? = arbiterPlaces[(l.val + (k.val + 1)) % 5]? := by
    intro l k r h
    match l with
    | 0 | 1 | 2 | 3 | 4 => cases h; revert k; decide
  exact all ⟨last, hl⟩ ⟨k, hk⟩ r hr

/-- What is found is the first element that qualifies. -/
theorem find?_of_first {α : Type} {wanted : α → Bool} {l : List α} {n : Nat} {a : α} (ha : l[n]? = some a)
    (hw : wanted a = true) (hb : ∀ k b, k < n → l[k]? = some b → wanted b = false) : l.find? wanted = some a := by
  obtain ⟨hn, ha⟩ := List.getElem?_eq_some_iff.1 ha
  refine List.find?_eq_some_iff_getElem.2 ⟨hw, n, hn, ha, fun k hk => ?_⟩
  simp [hb k _ hk (List.getElem?_eq_getElem (hk.trans hn))]

/-- R15: a requester's request carries its name and is no leftover of a hardware reset. -/
theorem requesterIssue_sent {pick : RecordWriter} {q : Requester} {i : Issue} {s : State}
    (h : requesterIssue pick q s = some i) : i.sent.request.requester = q ∧ i.sent.stale = false := by
  cases q with
  | path p =>
    simp only [requesterIssue, pathIssue] at h
    repeat' split at h
    all_goals cases h
    all_goals exact ⟨rfl, rfl⟩
  | relocation =>
    simp only [requesterIssue, relocationIssue] at h
    repeat' split at h
    all_goals cases h
    all_goals exact ⟨rfl, rfl⟩
  | loader =>
    simp only [requesterIssue, loaderIssue] at h
    repeat' split at h
    all_goals cases h
    exact ⟨rfl, rfl⟩
  | notice =>
    simp only [requesterIssue, Option.bind_eq_some_iff] at h
    obtain ⟨w, -, h⟩ := h
    unfold recordIssue at h
    dsimp only at h
    repeat' split at h
    all_goals cases h
    all_goals exact ⟨rfl, rfl⟩

/-- R13: issuing leaves DN alone; the grant alone puts the request in flight. -/
theorem Issued.dn {s t : State} (i : Issued s t) : t.dn = s.dn := by
  cases i <;> simp [popPath, putContext]

/-- Settles O14: `nextRequester` searches the places after the last-granted one. -/
theorem arbiterGrantsInCyclicOrder : Obligations.ArbiterGrantsInCyclicOrder := by
  refine ⟨fun pick q i last steps s hr hlen hlast h1 h5 hq hbefore hw hi => ?_, fun pick s hr hlen => ?_⟩
  · have next : nextRequester s = some q := by
      refine find?_of_first (n := steps - 1) ?_ hw fun k b hk hb => ?_
      · rw [placesAfter_getElem? hlast (by omega), Nat.sub_add_cancel h1]
        exact hq
      · rw [placesAfter_getElem? hlast (by omega)] at hb
        exact hbefore (k + 1) b (by omega) (by omega) hb
    obtain ⟨name, stale⟩ := requesterIssue_sent hi
    refine ⟨name, stale, ?_⟩
    have room : s.dn.inFlight.length < dnLimit := hlen
    simp only [exec, execArbiterGrant, hr.run, room, if_true, next, hi, happens, grant, (requesterIssue_issued hi).dn]
  · have full : ¬ s.dn.inFlight.length < dnLimit := Nat.not_lt.2 hlen
    simp only [exec, execArbiterGrant, hr.run, full, if_false]

/-! ## Path lists (R9, R11, R60) -/

theorem popPath_eq {p : Port} {e : PathEntry} {es : List PathEntry} {s : State} (h : (portOf p s).path = e :: es) :
    popPath p s = setPort p { portOf p s with path := es } s := by
  rw [popPath, h, List.tail_cons]

theorem pathIssue_forward {p : Port} {r : Request} {es : List PathEntry} {s : State}
    (h : (portOf p s).path = .forward r :: es) : pathIssue p s =
      some { sent := inFlightOf (.path p) r.address.toNat r.body (.forward p r)
             after := setPort p { portOf p s with path := es } s } := by
  rw [← popPath_eq h]
  simp only [pathIssue, h]

/-- R61: the first fragment that is not issued is the next. -/
theorem nextFragment_first {c : Context} {n : Nat} {f : Fragment} (hf : c.fragments[n]? = some f)
    (hs : f.state = .notIssued) (hb : ∀ m g, m < n → c.fragments[m]? = some g → g.state ≠ .notIssued) :
    nextFragment c = some n := by
  obtain ⟨hn, hf⟩ := List.getElem?_eq_some_iff.1 hf
  refine List.findIdx?_eq_some_iff_getElem.2 ⟨hn, by simp [hf, hs], fun m hm => ?_⟩
  simpa using hb m _ hm (List.getElem?_eq_getElem (hm.trans hn))

/-- R60: a fragment issued is IN_FLIGHT in its request's context. -/
theorem putContext_inFlight {p : Port} {tag : Tag} {c : Context} {n : Nat} {f : Fragment} {s : State}
    (hc : contextOf (p, tag) s = some c) (hf : c.fragments[n]? = some f) :
    putContext (setFragment c n fun g => { g with state := .inFlight }) s =
      { s with contexts := s.contexts.map fun d =>
        if d.port = p ∧ d.tag = tag then { c with fragments := c.fragments.set n { f with state := .inFlight } }
        else d } := by
  obtain ⟨-, hp, ht⟩ := contextOf_some hc
  have modified : (c.fragments.modify n fun g => { g with state := .inFlight }) =
      c.fragments.set n { f with state := .inFlight } := by
    rw [List.modify_eq_set_getElem?, hf]; rfl
  simp only [putContext, setFragment, modified, hp, ht]

theorem pathIssue_fragment {p : Port} {tag : Tag} {es : List PathEntry} {c : Context} {n : Nat} {f : Fragment}
    {s : State}
    (h : (portOf p s).path = .surface tag :: es) (hc : contextOf (p, tag) s = some c) (hf : c.fragments[n]? = some f)
    (hs : f.state = .notIssued) (hb : ∀ m g, m < n → c.fragments[m]? = some g → g.state ≠ .notIssued) :
    let moved := putContext (setFragment c n fun g => { g with state := .inFlight }) s
    pathIssue p s = some { sent := inFlightOf (.path p) f.address (fragmentBody c f) (.fragment p tag n)
                           after := if n + 1 = c.fragments.length
                             then setPort p { portOf p s with path := es } moved else moved } := by
  intro moved
  have port : portOf p moved = portOf p s := by cases p <;> rfl
  have popped := popPath_eq (s := moved) (by rw [port]; exact h)
  rw [port] at popped
  simp only [pathIssue, h, hc, nextFragment_first hf hs hb, hf, ← popped]
  rfl

/-! ## The relocation engine (R133 to R135) -/

/-- R133: the buffers that have a request to issue. -/
theorem bufferWaits_iff (x : TileBuffer) : bufferWaits x = true ↔
    (∃ r, x = .reading r ∧ r.abandon = false ∧ r.issued < 40) ∨ ∃ w, x = .writing w ∧ w.issued < 40 := by
  cases x <;> simp [bufferWaits]

/-- R133: of two buffers that wait, the one that did not issue last is next. -/
theorem nextBuffer_of_waits {e : Engine} {b : BufferId} (hb : bufferWaits (bufferOf b e) = true)
    (ho : bufferWaits (bufferOf (otherBuffer b) e) = false ∨ b ≠ e.lastIssuer) : nextBuffer e = some b := by
  unfold nextBuffer
  cases hl : e.lastIssuer <;> cases b <;> simp_all [otherBuffer]

/-- R133: with no buffer waiting there is no next one. -/
theorem nextBuffer_none {e : Engine} (h : ∀ b, bufferWaits (bufferOf b e) = false) : nextBuffer e = none := by
  simp [nextBuffer, h]

/-! ## The notice unit (R166, R167, R177, R178) -/

/-- R178: a number or none. -/
theorem numberCode_eq (n : Option Nat) : numberCode n = n.elim 0xFF#8 (BitVec.ofNat 8) := by cases n <;> rfl

/-- R178: the lower-numbered counter of a pair stands in bytes 0 and 1. -/
@[simp] theorem counterPair_low (lo hi : Counter) :
    (counterPair lo hi).extractLsb' 0 16 = BitVec.ofNat 16 lo.value := by
  unfold counterPair
  exact BitVec.extractLsb'_append_eq_right

/-- R178: the other in bytes 2 and 3. -/
@[simp] theorem counterPair_high (lo hi : Counter) :
    (counterPair lo hi).extractLsb' 16 16 = BitVec.ofNat 16 hi.value := by
  unfold counterPair
  exact BitVec.extractLsb'_append_eq_left

/-- R178: the counters in the order of the counts record. -/
def countsOrder : List CounterId :=
  [.clipped, .addressErrors, .memoryErrors, .held, .promotions, .moved, .filled, .failed, .replacements, .misses,
    .clamps, .transitions]

/-- R178: the counts record holds each counter in its half word. -/
theorem countsWords_value (c : Counters) {j : Nat} {i : CounterId} (h : countsOrder[j]? = some i) :
    ((countsWords c).getD (j / 2) 0).extractLsb' (16 * (j % 2)) 16 = BitVec.ofNat 16 (counterOf c i).value := by
  have hj : j < 12 := (List.getElem?_eq_some_iff.1 h).1
  interval_cases j <;> cases h
  all_goals simp [countsWords, counterOf]

/-- A flag appended below is bit 0, and the bits above it follow. -/
theorem getLsbD_append_flag {n : Nat} (x : BitVec n) (c : Counter) (j : Nat) :
    (x ++ flagBit c).getLsbD j = if j = 0 then c.saturated else x.getLsbD (j - 1) := by
  rw [BitVec.getLsbD_append]
  cases j with
  | zero => simp [flagBit]
  | succ j => simp

/-- R178: and each flag in its bit, with no bit above them set. -/
theorem countsWords_flag (c : Counters) (j : Nat) : ((countsWords c).getD 6 0).getLsbD j =
    ((countsOrder[j]?.map fun i => (counterOf c i).saturated).getD false) := by
  have low : ((countsWords c).getD 6 0).getLsbD j = (decide (j < 16) && (flagBits c).getLsbD j) := by
    refine (BitVec.getLsbD_append (x := 0#16) (y := flagBits c)).trans ?_
    by_cases h : j < 16 <;> simp [h]
  rw [low, flagBits]
  simp only [getLsbD_append_flag]
  by_cases hj : j < 12
  · interval_cases j
    all_goals simp [counterOf, countsOrder]
  · obtain ⟨k, rfl⟩ := Nat.exists_eq_add_of_le' (Nat.not_lt.1 hj)
    simp [countsOrder]

/-- R166: of the writes that became ready first, the one picked is written where it is one of them, and one of them in
any case. -/
theorem noticeIssue_oldest {pick : RecordWriter} {oldest : List RecordWriter}
    {later : List (List RecordWriter)} {s : State} (h : s.notice.readyQueue = oldest :: later) :
    (pick ∈ oldest → requesterIssue pick .notice s = recordIssue pick s) ∧
      (oldest ≠ [] → ∃ w ∈ oldest, requesterIssue pick .notice s = recordIssue w s) := by
  have picked : pick ∈ oldest → requesterIssue pick .notice s = recordIssue pick s := fun hp => by
    simp [requesterIssue, nextWriter, h, hp]
  refine ⟨picked, fun hne => ?_⟩
  by_cases hp : pick ∈ oldest
  · exact ⟨pick, hp, picked hp⟩
  · obtain ⟨w, ws, rfl⟩ := List.exists_cons_of_ne_nil hne
    exact ⟨w, List.mem_cons_self, by simp [requesterIssue, nextWriter, h, hp]⟩

/-- R178: the status record's words, field by field. -/
theorem statusWords_eq (s : State) : statusWords (statusFields s) =
    [ s.ctrl.generation ++ bankCode s.ctrl.frontBank ++ ctrlCode s.ctrl.state,
      s.monitor.override.elim 0xFF#8 (BitVec.ofNat 8) ++ s.ctrl.slot.elim 0xFF#8 (BitVec.ofNat 8)
        ++ (targetNumber s).elim 0xFF#8 (BitVec.ofNat 8) ++ (activeNumber s).elim 0xFF#8 (BitVec.ofNat 8),
      BitVec.ofNat 16 s.monitor.h2.filtered ++ BitVec.ofNat 16 s.monitor.h1.filtered,
      sourceCode s.cmd.source ++ panelCode s.frame.panel ++ hingeCode s.monitor.h2.state
        ++ hingeCode s.monitor.h1.state ] := by
  simp only [statusWords, numberCode_eq]
  rfl

/-- Settles O15: one requester after the other. -/
theorem requestersIssueTheirRequests : Obligations.RequestersIssueTheirRequests := by
  unfold Obligations.RequestersIssueTheirRequests
  intro sends whole
  refine ⟨fun p r es s h => ⟨_, pathIssue_forward h, rfl, rfl⟩, ?_, ?_, ?_, ?_, ?_, ?_,
    fun s => ⟨_, rfl, rfl, rfl⟩, ?_, ?_, ?_⟩
  · intro p tag es c n f s h hc hf hs hb moved
    refine ⟨_, pathIssue_fragment h hc hf hs hb, ?_, ?_⟩
    · cases c with
      | mk _ _ kind => cases kind <;> rfl
    · simp only [putContext_inFlight hc hf]
      rfl
  · intro s has
    have waits : ∀ b, bufferWaits (bufferOf b s.engine) = true ↔ has b := fun b => bufferWaits_iff _
    refine ⟨fun b hb ho => nextBuffer_of_waits ((waits b).2 hb) (ho.imp_left fun hn => ?_), fun hn => ?_⟩
    · exact Bool.eq_false_iff.2 fun h => hn ((waits _).1 h)
    · have none := nextBuffer_none fun b => Bool.eq_false_iff.2 fun h => hn b ((waits b).1 h)
      exact ⟨none, by simp only [relocationIssue, none]⟩
  · intro b r s hb hr
    exact ⟨_, by simp only [relocationIssue, hb, hr]; rfl, rfl, by cases b <;> rfl⟩
  · intro b w s hb hw
    exact ⟨_, by simp only [relocationIssue, hb, hw]; rfl, rfl, by cases b <;> rfl⟩
  · intro l a n later s hl hi
    exact ⟨_, by simp only [loaderIssue, hl, hi]; rfl, rfl, rfl⟩
  · intro pick s
    exact ⟨fun _ => rfl, rfl, rfl, fun h => by simp [requesterIssue, nextWriter, h], fun _ _ => noticeIssue_oldest⟩
  · intro s
    refine ⟨_, rfl, ?_, rfl⟩
    simp only [statusWords_eq]
    rfl
  · intro r s h
    exact ⟨_, by simp only [recordIssue, h]; rfl, rfl, rfl⟩
  · intro w s h
    refine ⟨_, countsWords w.counters, by simp only [recordIssue, h]; rfl, rfl, rfl, rfl, fun j c hc => ?_,
      fun j hj => ?_⟩
    · refine ⟨countsWords_value _ hc, (countsWords_flag _ _).trans ?_⟩
      rw [show countsOrder[j]? = some c from hc]
      rfl
    · refine (countsWords_flag _ _).trans ?_
      rw [List.getElem?_eq_none hj]
      rfl

end Sys2Proof.Machine
end

section
/-!
O6: the forwarded requests and their watch points (R9, R10, R153, R156).
-/
namespace Sys2Proof.Machine

/-! ## The watch points (R10) -/

/-- R17: marking a tag moves no tile. -/
@[simp] theorem sharesHeldTile_markTag (p q : Port) (tag : Tag) (ts : List BankTile) (s : State) :
    sharesHeldTile p ts (markTag q tag s) = sharesHeldTile p ts s := by
  cases q <;> rfl

/-- R9, R17: a raw bank window request that shares no held tile joins its path list. -/
theorem admitRequest_raw {p : Port} {r : Request} {s : State} (ht : TakesTag p r.tag s) (hw : admittedWindow r = some .raw)
    (hn : SharesNoHeldTile p (rawTiles r) s) : admitRequest p r s = forwarded p r s := by
  simp [admitRequest, hw, isSurface, acceptRequest, routeRaw, hn.test, forwarded_of_steps p r s ht]

/-- R10: what writes no watched word reports nothing. -/
theorem reportWatched_none {r : Request} (hc : wordWrittenAt r commandWordAddress = none)
    (hn : wordWrittenAt r noticeRecordAddress = none) (ht : writesTableArea r = false) (p : Port) (s : State) :
    reportWatched p r s = s := by
  simp [reportWatched, hc, hn, ht]

/-- R1: a READ writes no word. -/
theorem read_writes_none {r : Request} (h : bodyKind r.body = .read) (a : Nat) :
    wordWrittenAt r a = none ∧ writesTableArea r = false := by
  unfold wordWrittenAt writesTableArea writtenWords
  cases hb : r.body with
  | read n => exact ⟨rfl, rfl⟩
  | write px => rw [hb] at h; cases h

/-- R156: a table area write disturbs a running load, and writes no other watched word. -/
theorem reportWatched_table {r : Request} (hp : presentable r = true) (ht : writesTableArea r = true)
    (p : Port) (s : State) : reportWatched p r s =
      { s with cmd := { s.cmd with load := s.cmd.load.map fun l => { l with disturbed := true } } } := by
  obtain ⟨hc, hn⟩ := (watchPoints_apart hp).2 ht
  simp [reportWatched, hc, hn, ht, reportTableWrite, onLoad, onCmd]

/-- R153: a write that holds the command word reports that word alone. -/
theorem reportWatched_command {r : Request} {w : Pixel} (hp : presentable r = true)
    (hc : wordWrittenAt r commandWordAddress = some w) (p : Port) (s : State) :
    reportWatched p r s = reportCommandWord w s := by
  obtain ⟨notice, table⟩ := watchPoints_apart hp
  have hn : wordWrittenAt r noticeRecordAddress = none := by
    refine Option.eq_none_iff_forall_not_mem.2 fun v hv => ?_
    rw [(notice (by rw [writesNoticeRecord, Option.mem_def.1 hv]; rfl)).1] at hc
    cases hc
  have ht : writesTableArea r = false := Bool.eq_false_iff.2 fun ht => by
    rw [(table ht).1] at hc
    cases hc
  simp [reportWatched, hc, hn, ht]

/-! ## Presenting what is forwarded -/

/-- R10: a system window request that is presented is forwarded and reported. -/
theorem present_system {p : Port} {r : Request} {s : State} (h : Released s) (hp : presentable r = true)
    (ht : TakesTag p r.tag s) (hw : admittedWindow r = some .system) :
    present p r s = .next (settleOutputs s (reportWatched p r (forwarded p r s))) := by
  rw [present_takes h hp ht, admit_system ht hw]

/-- Log 6: a row that narrows REQUEST_PRESENT does on its own operands what that row does. -/
theorem exec_systemWrite {p : Port} {r : Request} (s : State) :
    ((Instr.systemWindowWrite p r).WellFormed → exec (.systemWindowWrite p r) s = exec (.requestPresent p r) s) ∧
      ((Instr.tableAreaWrite p r).WellFormed → exec (.tableAreaWrite p r) s = exec (.requestPresent p r) s) ∧
      ((Instr.noticeRecordWrite p r).WellFormed → exec (.noticeRecordWrite p r) s = exec (.requestPresent p r) s) :=
  ⟨fun h => if_pos h, fun h => if_pos h, fun h => if_pos h⟩

/-- Settles O6: each kind by what its watch points report. -/
theorem forwardedRequestJoinsThePath : Obligations.ForwardedRequestJoinsThePath := by
  refine ⟨fun p r s hr ht => ⟨fun hp hw hn => ?_, fun hp hk hw => ?_, fun c hc h => ?_, fun c hc h => ?_, fun h => ?_,
    fun word hp hw hc => ?_⟩, fun p tag seq arg s => ⟨rfl, rfl, rfl, rfl, rfl, fun code hc => ?_⟩⟩
  · exact (present_takes hr hp ht).trans (by rw [admitRequest_raw ht hw hn])
  · refine (present_system hr hp ht hw).trans ?_
    obtain ⟨command, table⟩ := read_writes_none hk commandWordAddress
    rw [reportWatched_none command (read_writes_none hk _).1 table]
  · have row : exec c s = present p r s := by
      rcases hc with rfl | rfl
      · exact (exec_systemWrite s).1 h
      · rfl
    obtain ⟨hp, ⟨-, hw⟩, command, notice, table⟩ := h
    rw [row, present_system hr hp ht hw, reportWatched_none (by simpa [writesCommandWord] using command)
      (by simpa [writesNoticeRecord] using notice) table]
  · have row : exec c s = present p r s := by
      rcases hc with rfl | rfl
      · exact (exec_systemWrite s).2.1 h
      · rfl
    obtain ⟨hp, ⟨-, hw⟩, table⟩ := h
    rw [row, present_system hr hp ht hw, reportWatched_table hp table]
    simp
  · exact ((exec_systemWrite s).2.2 h).symm
  · refine (present_system hr hp ht hw).trans ?_
    rw [reportWatched_command hp hc]
    simp only [reportCommandWord, forwarded_cmd, onCmd]
    rfl
  · exact (if_pos hc).symm

end Sys2Proof.Machine
end

section
/-!
O7, O8, O9: where a request waits, where its wait ends, and where a surface request is held (R6, R8, R11, R17, R141,
R142, R145).
-/
namespace Sys2Proof.Machine

/-! ## The routing of an accepted surface request (R11, R17, R141, R142) -/

section
variable {p : Port} {r : Request} {c : Context} {s : State}

/-- R17: a request that shares a tile with a held one waits for the order. -/
theorem routeSurface_waitOrder (h : ¬ SharesNoHeldTile p c.tiles s) :
    routeSurface p r c s = setPlace p (.waitOrder r) s := by
  have test : sharesHeldTile p c.tiles s = true := by simpa [← sharesHeldTile_iff] using h
  simp [routeSurface, test]

/-- R142: a request to be held while 16 are held waits for the hold queue. -/
theorem routeSurface_waitHold (h : SharesNoHeldTile p c.tiles s) (hm : MustBeHeld c s)
    (hl : 16 ≤ s.engine.hold.length) : routeSurface p r c s = setPlace p (.waitHold r) s := by
  simp [routeSurface, h.test, (mustHold_iff c s).2 hm, Nat.not_lt.2 hl]

/-- R142: a request to be held enters the hold queue while that has room. -/
theorem routeSurface_held (h : SharesNoHeldTile p c.tiles s) (hm : MustBeHeld c s) (hl : s.engine.hold.length < 16) :
    routeSurface p r c s = takeTiles (enteredHold (p, r.tag) c (setPlace p .empty s)) := by
  simp [routeSurface, h.test, (mustHold_iff c s).2 hm, hl, enterHold_eq]

/-- R11: any other joins its path list. -/
theorem routeSurface_joins (h : SharesNoHeldTile p c.tiles s) (hm : ¬ MustBeHeld c s) :
    routeSurface p r c s = setPort p { portOf p s with
      place := .empty, path := (portOf p s).path ++ [.surface r.tag] } s := by
  have test : mustHold c s = false := Bool.eq_false_iff.2 fun h => hm ((mustHold_iff c s).1 h)
  simp only [routeSurface, h.test, test, Bool.false_eq_true, if_false]
  cases p <;> rfl

end

/-! ## Reception (R7, R46, R49) -/

section
variable {p : Port} {c : Context} {n : Nat} {s : State}

theorem received_port : portOf p (received p c n s) = { portOf p s with tags := (portOf p s).tags ++ [c.tag] } := by
  cases p <;> rfl

theorem received_engine : (received p c n s).engine = s.engine := by simp [received]

theorem received_contexts : (received p c n s).contexts = s.contexts ++ [c] := rfl

/-- R17: the order test on a request just received sees the requests that were held before. -/
theorem received_shares {ts : List BankTile} (h : (c.port, c.tag) ∉ s.engine.hold) :
    SharesNoHeldTile p ts (received p c n s) ↔ SharesNoHeldTile p ts s := by
  rw [← sharesHeldTile_iff, ← sharesHeldTile_iff,
    sharesHeldTile_append received_contexts (by rw [received_engine]) h]

/-- R141: the hold test sees the controller and the map as they were. -/
theorem received_mustBeHeld {d : Context} : MustBeHeld d (received p c n s) ↔ MustBeHeld d s := by
  have ctrl : (received p c n s).ctrl = s.ctrl := by simp [received]
  rw [MustBeHeld, MustBeHeld, ctrl, received_engine]

/-- The place of a request just received is EMPTY already. -/
theorem received_empty (h : (portOf p s).place = .empty) : setPlace p .empty (received p c n s) = received p c n s :=
  setPlace_empty (by rw [received_port]; exact h)

end

section
variable {p : Port} {r : Request} {k : Nat} {rc : RecordCopy} {b : Bank} {s : State}

/-- R6, R11: a received surface request with a fragment is routed on the part that holds its context. -/
theorem present_routed (h : Released s) (hp : presentable r = true) (ht : TakesTag p r.tag s)
    (hw : admittedWindow r = some (.surface k)) (hg : Governs rc b s)
    (hf : (makeContext p s.ctrl.generation rc b (snapshotOf s.cmd.shadow k) k r).fragments ≠ []) :
    let c := makeContext p s.ctrl.generation rc b (snapshotOf s.cmd.shadow k) k r
    let u := received p c (droppedPixels k (snapshotOf s.cmd.shadow k) rc r) s
    exec (.requestPresent p r) s = .next (settleOutputs s (routeSurface p r c u)) :=
  (present_surface h hp ht hw hg).trans (by rw [if_neg hf])

end

/-- R141: what is in STEADY, in FLIP_WAIT, or touches finished tiles alone need not be held. -/
theorem not_mustBeHeld {c : Context} {s : State}
    (h : s.ctrl.state = .steady ∨ s.ctrl.state = .flipWait ∨ tilesFinished s.engine.map c.tiles = true) :
    ¬ MustBeHeld c s := by
  rintro ⟨hs, -, t, ht, hu⟩
  rcases h with h | h | h
  · simp [h] at hs
  · simp [h] at hs
  · rw [tilesFinished, List.all_eq_true] at h
    rw [h t ht] at hu
    cases hu

/-- Settles O8: the routing of a received request that need not be held, and the answer to one without a fragment. -/
theorem surfaceRequestInSteady : Obligations.SurfaceRequestInSteady := by
  intro p r k rc b s hr ht hp hw hg hh c u
  obtain ⟨place, path, ready⟩ : (portOf p u).place = .empty ∧ (portOf p u).path = (portOf p s).path ∧
      (portOf p u).ready = (portOf p s).ready := by
    rw [received_port]
    exact ⟨ht.1, rfl, rfl⟩
  refine ⟨fun hf hs hm => ?_, fun hf => ?_, not_mustBeHeld⟩
  · rw [present_routed hr hp ht hw hg hf,
      routeSurface_joins ((received_shares hh).2 hs) fun h => hm (received_mustBeHeld.1 h), ← place, ← path]
  · refine (present_surface hr hp ht hw hg).trans ?_
    rw [if_pos hf, makeReady_eq, zeroData_eq, ← ready]

/-! ## The end of a wait (R8) -/

section
variable {p : Port} {r : Request} {c : Context} {s : State}

/-- R8: the wait for the table ends when LOADING is left. -/
theorem endWait_tableThere (hp : (portOf p s).place = .waitTable r) (hs : s.ctrl.state ≠ .loading) :
    endWait p s = some (admitRequest p r s) := by
  simp [endWait, hp, hs]

/-- R8: the wait for the order ends when no held request shares a tile. -/
theorem endWait_order_free (hp : (portOf p s).place = .waitOrder r) (hs : SharesNoHeldTile p (waitingTiles p r s) s) :
    endWait p s = some (routeAgain p r s) := by
  simp [endWait, hp, hs.test]

theorem endWait_order_stands (hp : (portOf p s).place = .waitOrder r)
    (hs : ¬ SharesNoHeldTile p (waitingTiles p r s) s) : endWait p s = none := by
  have test : sharesHeldTile p (waitingTiles p r s) s = true := by simpa [← sharesHeldTile_iff] using hs
  simp [endWait, hp, test]

/-- R8: the wait for the hold queue ends when that has room or the request need not be held any more. -/
theorem endWait_hold_over (hp : (portOf p s).place = .waitHold r) (hc : contextOf (p, r.tag) s = some c)
    (h : s.engine.hold.length < 16 ∨ ¬ MustBeHeld c s) : endWait p s = some (routeAgain p r s) := by
  have passed : holdWaitOver p r s = true := by
    simp only [holdWaitOver, hc, Bool.or_eq_true, decide_eq_true_eq, Bool.not_eq_true']
    exact h.imp_right fun hm => Bool.eq_false_iff.2 fun h => hm ((mustHold_iff c s).1 h)
  simp [endWait, hp, passed]

theorem endWait_hold_stands (hp : (portOf p s).place = .waitHold r) (hc : contextOf (p, r.tag) s = some c)
    (hm : MustBeHeld c s) (hl : 16 ≤ s.engine.hold.length) : endWait p s = none := by
  simp [endWait, hp, holdWaitOver, hc, (mustHold_iff c s).2 hm, Nat.not_lt.2 hl]

/-- R8: an accepted surface request is routed again with the context it was received with. -/
theorem routeAgain_surface (hc : contextOf (p, r.tag) s = some c) : routeAgain p r s = routeSurface p r c s := by
  simp only [routeAgain, hc]

theorem waitingTiles_surface (hc : contextOf (p, r.tag) s = some c) : waitingTiles p r s = c.tiles := by
  simp only [waitingTiles, hc]

/-- R8: where an accepted surface request's wait ends, the request is routed from the hold test on. -/
theorem endWait_surface (hp : (portOf p s).place = .waitHold r ∨ (portOf p s).place = .waitOrder r)
    (hc : contextOf (p, r.tag) s = some c) (hs : SharesNoHeldTile p c.tiles s)
    (h : s.engine.hold.length < 16 ∨ ¬ MustBeHeld c s) : endWait p s = some (routeSurface p r c s) := by
  rw [← routeAgain_surface hc]
  rcases hp with hp | hp
  · exact endWait_hold_over hp hc h
  · exact endWait_order_free hp (by rwa [waitingTiles_surface hc])

end

/-- Settles O9: a request to be held goes through `enterHold` where the hold queue has room. -/
theorem surfaceRequestIsHeld : Obligations.SurfaceRequestIsHeld := by
  refine ⟨fun p r s hr hl => ⟨?_, fun c hp hc hs hm => ?_⟩, fun s => takeTiles_busy⟩
  · intro k rc b ht hp hw hg hh c u hf hs hm
    rw [present_routed hr hp ht hw hg hf,
      routeSurface_held ((received_shares hh).2 hs) (received_mustBeHeld.2 hm) (by rwa [received_engine]),
      received_empty ht.1]
  · rw [intakeWaitEnd_next hr (endWait_surface hp hc hs (.inl hl)), routeSurface_held hs hm hl]

/-! ## What waits goes on as if presented then (R6, R8) -/

/-- R6: the window tests put the request into its place themselves, so it does not matter what stood there. -/
theorem admitRequest_setPlace (p : Port) (r : Request) (x : Place) (s : State) :
    admitRequest p r (setPlace p x s) = admitRequest p r s := by
  unfold admitRequest
  split
  · cases p <;> rfl
  · rename_i w hw
    cases w with
    | raw => cases p <;> rfl
    | system => cases p <;> rfl
    | surface k => cases p <;> rfl

/-- R6, R8: what waited for its tag or for the table goes on exactly as if it were presented then. -/
theorem waitEnd_presents {p : Port} {r : Request} {s : State} (h : Released s) (hp : presentable r = true)
    (ht : tagOutstanding p r.tag s = false) (he : endWait p s = some (admitRequest p r s)) :
    ∃ t, exec (.intakeWaitEnd p) s = .next t ∧ exec (.requestPresent p r) (setPlace p .empty s) = .next t := by
  have released : Released (setPlace p .empty s) := by rw [Released, setPlace_pins]; exact h
  have takes : TakesTag p r.tag (setPlace p .empty s) := by cases p <;> exact ⟨rfl, ht⟩
  refine ⟨_, intakeWaitEnd_next h he, (present_takes released hp takes).trans ?_⟩
  rw [admitRequest_setPlace]
  exact congrArg _ (settleOutputs_congr (by cases p <;> rfl) _)

/-- R8: a request whose tag is outstanding stands, marked or not; so does one that waits for the table in LOADING. -/
theorem endWait_stands {p : Port} {r : Request} {s : State}
    (h : (∃ m, (portOf p s).place = .waitTag r m) ∧ tagOutstanding p r.tag s = true ∨
      (portOf p s).place = .waitTable r ∧ s.ctrl.state = .loading) : endWait p s = none := by
  rcases h with ⟨⟨m, hp⟩, ht⟩ | ⟨hp, hs⟩
  · simp [endWait, hp, ht]
  · simp [endWait, hp, hs]

section
variable {p : Port} {r : Request} {s : State}

/-- R17: a raw bank window request that shares a held tile waits for the order. -/
theorem admitRequest_raw_waitOrder (hw : admittedWindow r = some .raw) (hn : ¬ SharesNoHeldTile p (rawTiles r) s) :
    admitRequest p r s = setPort p { portOf p s with
      tags := (portOf p s).tags ++ [r.tag], place := .waitOrder r } s := by
  have test : sharesHeldTile p (rawTiles r) s = true := by simpa [← sharesHeldTile_iff] using hn
  simp only [admitRequest, hw, isSurface, Bool.false_eq_true, false_and, if_false, acceptRequest, routeRaw,
    sharesHeldTile_markTag, test, if_true]
  cases p <;> rfl

/-- R8, R9: where a raw bank window request's wait for the order ends, it joins its path list. -/
theorem routeAgain_raw (hc : contextOf (p, r.tag) s = none) (hs : SharesNoHeldTile p (rawTiles r) s) :
    routeAgain p r s = setPort p { portOf p s with
      place := .empty, path := (portOf p s).path ++ [.forward r] } s := by
  simp only [routeAgain, hc, routeRaw, hs.test, Bool.false_eq_true, if_false]
  cases p <;> rfl

theorem waitingTiles_raw (hc : contextOf (p, r.tag) s = none) : waitingTiles p r s = rawTiles r := by
  simp only [waitingTiles, hc]

/-- R8: a surface request received in LOADING waits for the table. -/
theorem admitRequest_waitTable {k : Nat} (hw : admittedWindow r = some (.surface k)) (hs : s.ctrl.state = .loading) :
    admitRequest p r s = setPlace p (.waitTable r) s := by
  simp [admitRequest, hw, isSurface, hs]

end

/-- Settles O7: the entries by the branches of R6, the ends by those of `endWait`. -/
theorem requestWaitsAndGoesOn : Obligations.RequestWaitsAndGoesOn := by
  intro p r s hr
  refine ⟨present_waitTag hr, fun k hp ht hw hs => ?_, ?_, fun hp ht hw hn => ?_, fun hp ht hpl => ?_, fun h => ?_,
    fun c hc => ⟨fun hpl hn => ?_, fun hpl hm hl => ?_, fun hpl hs hm hl => ?_, fun hpl hs hm => ?_⟩,
    fun hpl hc => ⟨fun hn => ?_, fun hs => ?_⟩⟩
  · exact (present_takes hr hp ht).trans (by rw [admitRequest_waitTable hw hs])
  · intro k rc b hp ht hw hg hh c u hf
    refine ⟨fun hn => ?_, fun hs hm hl => ?_⟩
    · rw [present_routed hr hp ht hw hg hf, routeSurface_waitOrder fun h => hn ((received_shares hh).1 h)]
    · rw [present_routed hr hp ht hw hg hf,
        routeSurface_waitHold ((received_shares hh).2 hs) (received_mustBeHeld.2 hm) (by rwa [received_engine])]
  · exact (present_takes hr hp ht).trans (by rw [admitRequest_raw_waitOrder hw hn])
  · refine waitEnd_presents hr hp ht ?_
    rcases hpl with hpl | ⟨hpl, hs⟩
    · exact endWait_tagFree hpl ht
    · exact endWait_tableThere hpl hs
  · exact intakeWaitEnd_refused hr (endWait_stands h)
  · exact intakeWaitEnd_refused hr (endWait_order_stands hpl (by rwa [waitingTiles_surface hc]))
  · exact intakeWaitEnd_refused hr (endWait_hold_stands hpl hc hm hl)
  · have ends := endWait_order_free hpl (by rwa [waitingTiles_surface hc])
    rw [intakeWaitEnd_next hr ends, routeAgain_surface hc, routeSurface_waitHold hs hm hl]
  · rw [intakeWaitEnd_next hr (endWait_surface hpl hc hs (.inr hm)), routeSurface_joins hs hm]
  · exact intakeWaitEnd_refused hr (endWait_order_stands hpl (by rwa [waitingTiles_raw hc]))
  · have ends := endWait_order_free hpl (by rwa [waitingTiles_raw hc])
    rw [intakeWaitEnd_next hr ends, routeAgain_raw hc hs]

end Sys2Proof.Machine
end

section
/-!
O11, O12, O13: the sending of a response, what it reports to the notice unit, and the drain's end (R2, R19, R107, R108,
R165, R166).
-/
namespace Sys2Proof.Machine

/-! ## The request that RESTART marked (R19) -/

/-- R19: a sending answers the request that RESTART marked for its tag, and no other. -/
theorem abortAfterTag_cases {p : Port} {tag : Tag} {s : State} :
    ((∀ q, (portOf p s).place = .waitTag q true → q.tag ≠ tag) → abortAfterTag p tag s = s) ∧
      ∀ q, (portOf p s).place = .waitTag q true → q.tag = tag → abortAfterTag p tag s = markedAborted p q s := by
  unfold abortAfterTag
  refine ⟨fun h => ?_, fun q hq ht => ?_⟩
  · split
    · rename_i r hr
      rw [if_neg (h r hr)]
    · rfl
  · simp only [hq, ht, if_true]
    subst ht
    cases p <;> rfl

/-- R2: a ready response is sent by RESPONSE_SEND, and the answer to a read of the notice record by NOTICE_RECORD_READ
too (log 7). -/
theorem response_sends {p : Port} {tag : Tag} {rr : ReadyResponse} {s : State} (h : Released s)
    (hn : nextResponse p tag s = some rr) :
    exec (.responseSend p tag) s = .next (settleOutputs s (sendResponse p rr s)) ∧
      (answersNoticeRead rr = true →
        exec (.noticeRecordRead p tag) s = .next (settleOutputs s (sendResponse p rr s))) := by
  refine ⟨?_, fun ha => ?_⟩
  · simp only [exec, execResponseSend, h.run, hn, happens]
  · simp only [exec, execNoticeRecordRead, h.run, hn, happens, ha, if_true]

/-- R19: what a command that sends leaves, with and without a marked request: `left` is the part before the mark is
looked at. -/
theorem sends_cases {p : Port} {tag : Tag} {rr : ReadyResponse} {c : Instr} {s left : State}
    (he : exec c s = .next (settleOutputs s (sendResponse p rr s)))
    (hs : sendResponse p rr s = abortAfterTag p tag left) (hp : (portOf p left).place = (portOf p s).place) :
    ((∀ q, (portOf p s).place = .waitTag q true → q.tag ≠ tag) → exec c s = .next (settleOutputs s left)) ∧
      ∀ q, (portOf p s).place = .waitTag q true → q.tag = tag →
        exec c s = .next (settleOutputs s (markedAborted p q left)) := by
  rw [he, hs]
  refine ⟨fun h => ?_, fun q hq ht => ?_⟩
  · rw [abortAfterTag_cases.1 (hp ▸ h)]
  · rw [abortAfterTag_cases.2 q (hp ▸ hq) ht]

/-! ## What a sending leaves before that (R2, R45, R107) -/

/-- What a sending reports goes to the notice unit alone, by its contents and the acknowledge mode. -/
theorem reportSent_eq (p : Port) (rr : ReadyResponse) {s x : State} (hn : x.notice = s.notice) (hc : x.cmd = s.cmd) :
    reportSent p rr x = { x with notice := (reportSent p rr s).notice } := by
  have mode : ackMode x = ackMode s := by simp only [ackMode, hc]
  unfold reportSent reportForwarded
  rw [mode]
  repeat' split
  all_goals simp only [hostWriteDone, onNotice, ← hn]

/-- R107: a sending that does not end the drain only takes its key from the old-write set. -/
theorem leaveOldWrites_stays {key : Key} {s : State}
    (h : key ∈ s.ctrl.oldWrites → s.ctrl.state = .draining → ∃ k ∈ s.ctrl.oldWrites, k ≠ key) :
    leaveOldWrites key s = onCtrl (fun c => { c with oldWrites := c.oldWrites.filter fun k => k ≠ key }) s := by
  unfold leaveOldWrites
  split
  · rename_i hk
    refine if_neg fun ⟨hs, he⟩ => ?_
    obtain ⟨k, hmem, hne⟩ := h hk hs
    have stays : k ∈ s.ctrl.oldWrites.filter fun k => k ≠ key := List.mem_filter.2 ⟨hmem, by simpa using hne⟩
    rw [show (s.ctrl.oldWrites.filter fun k => k ≠ key) = [] from he] at stays
    cases stays
  · rename_i hk
    have same : (s.ctrl.oldWrites.filter fun k => k ≠ key) = s.ctrl.oldWrites :=
      List.filter_eq_self.2 fun k hm => by simpa using fun e : k = key => hk (e ▸ hm)
    simp only [onCtrl, same]

/-- The part right after the sending, its old-write set not yet looked at. -/
def beforeLeaving (p : Port) (tag : Tag) (rr : ReadyResponse) (s : State) : State :=
  { setPort p { portOf p s with
      ready := withoutSent tag (portOf p s).ready, tags := (portOf p s).tags.erase tag, sent := some rr.response } s with
    contexts := s.contexts.filter fun c => !(c.port == p && c.tag == tag)
    notice := (reportSent p rr s).notice }

/-- R2: a sending is the response's leaving, its report, the old-write set's turn, and the marked request's answer. -/
theorem sendResponse_eq {p : Port} {tag : Tag} {rr : ReadyResponse} {s : State} (ht : rr.response.tag = tag) :
    sendResponse p rr s = abortAfterTag p tag (leaveOldWrites (p, tag) (beforeLeaving p tag rr s)) := by
  unfold sendResponse
  simp only [ht]
  rw [reportSent_eq p rr (s := s) (by simp [dropContext]) (by simp [dropContext])]
  congr 2
  simp [beforeLeaving, dropContext]

/-- The place is the sending port's own affair until the marked request is answered. -/
theorem afterSending_place (p : Port) (tag : Tag) (rr : ReadyResponse) (s : State) :
    (portOf p (afterSending p tag rr s)).place = (portOf p s).place := by
  cases p <;> rfl

/-- R2, R107: a sending that does not end the drain. -/
theorem sendResponse_stays {p : Port} {tag : Tag} {rr : ReadyResponse} {s : State} (ht : rr.response.tag = tag)
    (h : (p, tag) ∈ s.ctrl.oldWrites → s.ctrl.state = .draining → ∃ k ∈ s.ctrl.oldWrites, k ≠ (p, tag)) :
    sendResponse p rr s =
      abortAfterTag p tag { afterSending p tag rr s with notice := (reportSent p rr s).notice } := by
  have ctrl : (beforeLeaving p tag rr s).ctrl = s.ctrl := by simp [beforeLeaving]
  rw [sendResponse_eq ht, leaveOldWrites_stays (by rwa [ctrl])]
  congr 1
  simp only [onCtrl, ctrl]
  rfl

/-! ## The report to the notice unit (R165, R166) -/

/-- R165: the acknowledge mode is READ unless a shadow table says otherwise. -/
theorem ackMode_read (s : State) : ackMode s = .read ↔ ∀ tb, s.cmd.shadow = some tb → tb.ackMode = .read := by
  unfold ackMode
  cases s.cmd.shadow <;> simp

/-- R10: a READ of the notice record writes no word. -/
theorem noticeRead_writes_none {r : Request} {i : Nat} (h : noticeReadPosition r = some i) :
    writesNoticeRecord r = false := by
  unfold noticeReadPosition at h
  have read : bodyKind r.body = .read := by
    cases hb : r.body with
    | read n => rfl
    | write px => rw [hb] at h; cases h
  rw [writesNoticeRecord, (read_writes_none read _).1]
  rfl

/-- R165: a read of the notice record acknowledges in READ mode the kinds of the word it returned. -/
theorem reportSent_noticeRead {p : Port} {rr : ReadyResponse} {r : Request} {i : Nat} {s : State}
    (ho : rr.origin = .forwarded r) (hi : noticeReadPosition r = some i) :
    (ackMode s = .read → (reportSent p rr s).notice = acknowledgeWord (rr.response.data.getD i 0) s.notice) ∧
      (ackMode s ≠ .read → (reportSent p rr s).notice = s.notice) := by
  simp only [reportSent, ho, reportForwarded, noticeRead_writes_none hi, Bool.false_eq_true, if_false, hi]
  cases ackMode s with
  | read => exact ⟨fun _ => rfl, fun h => absurd rfl h⟩
  | write => exact ⟨nofun, fun _ => rfl⟩

/-- Settles O11: what the read acknowledges (`acknowledgeWord_spec`), sent by either command. -/
theorem noticeRecordReadAcknowledges : Obligations.NoticeRecordReadAcknowledges := by
  intro p tag rr r i s hr hn ho hi hd
  obtain ⟨read, write⟩ := reportSent_noticeRead (p := p) (s := s) ho hi
  obtain ⟨spec, kinds, same, changed⟩ := acknowledgeWord_spec (rr.response.data.getD i 0) s.notice
  have answers : answersNoticeRead rr = true := by simp [answersNoticeRead, ho, hi]
  obtain ⟨sends, reads⟩ := response_sends hr hn
  refine ⟨(reportSent p rr s).notice, ?_, fun k => ?_, fun h => ?_, fun h => ?_, fun c hc => ?_⟩
  · by_cases hm : ackMode s = .read
    · rw [read hm]; exact spec
    · rw [write hm]
  · rw [← ackMode_read]
    by_cases hm : ackMode s = .read
    · rw [read hm, kinds]; simp [hm]
    · rw [write hm]; simp [hm]
  · by_cases hm : ackMode s = .read
    · rw [read hm] at h ⊢; exact same h
    · rw [write hm]
  · by_cases hm : ackMode s = .read
    · rw [read hm] at h ⊢; exact changed h
    · rw [write hm] at h; exact absurd rfl h
  · refine sends_cases ?_ (sendResponse_stays (nextResponse_tag hn) hd) (afterSending_place p tag rr s)
    rcases hc with rfl | rfl
    · exact reads answers
    · exact sends

/-- R166: what a sending reports where it touches no notice record, and where it answers a write of it. -/
theorem reportSent_notice {p : Port} {rr : ReadyResponse} {notice : NoticeUnit} {s : State}
    (h : ((∀ r, rr.origin = .forwarded r → writesNoticeRecord r = false ∧ noticeReadPosition r = none) ∧
        notice = s.notice) ∨
      (∃ r, rr.origin = .forwarded r ∧ writesNoticeRecord r = true ∧ notice = { s.notice with
        hostWrites := s.notice.hostWrites.filter fun k => k ≠ (p, r.tag)
        noticeWriter := writerChanged s.notice.noticeWriter })) : (reportSent p rr s).notice = notice := by
  unfold reportSent
  rcases h with ⟨plain, rfl⟩ | ⟨r, ho, hw, rfl⟩
  · split
    · rename_i r ho
      obtain ⟨hw, hi⟩ := plain r ho
      simp [reportForwarded, hw, hi]
    · rfl
  · simp [ho, reportForwarded, hw, hostWriteDone]

/-- Settles O12: `sendResponse_stays` with what the sending reports. -/
theorem responseIsSent : Obligations.ResponseIsSent := by
  intro p tag rr notice s hr hn hd hnotice left
  have sent := sendResponse_stays (nextResponse_tag hn) hd
  rw [reportSent_notice hnotice] at sent
  exact sends_cases (response_sends hr hn).1 sent (afterSending_place p tag rr s)

/-! ## The drain's end (R107, R108, R112, R113) -/

/-- R131: a take leaves a busy buffer as it is. -/
theorem takeTile_bufferBusy {b o : BufferId} {s : State} (h : bufferOf o s.engine ≠ .empty) :
    bufferOf o (takeTile b s).engine = bufferOf o s.engine := by
  by_cases ho : o = b
  · subst ho
    unfold takeTile
    split
    · rename_i he; exact absurd he h
    · rfl
  · have other : ∀ (x : TileBuffer) (e : Engine), bufferOf o (setBuffer b x e) = bufferOf o e := fun x e => by
      rw [bufferOf_setBuffer_eq, if_neg ho]
    have starts : ∀ (t : Tile) (x : State), bufferOf o (startTile b t x).engine = bufferOf o x.engine := fun t x => by
      unfold startTile
      split
      · exact other _ _
      · exact other _ _
      · rfl
    have promotes : ∀ x : State, bufferOf o (promoteHeld x).engine = bufferOf o x.engine := fun x => by
      rw [(promoteHeld_spec x).1]
      cases o <;> rfl
    unfold takeTile
    repeat' split
    · rw [promotes, starts]; cases o <;> rfl
    · rfl
    · rw [starts]; cases o <;> rfl
    · cases o <;> rfl
    · rfl

/-- R131: takes leave a busy buffer as it is. -/
theorem takeTiles_bufferBusy {o : BufferId} {s : State} (h : bufferOf o s.engine ≠ .empty) :
    bufferOf o (takeTiles s).engine = bufferOf o s.engine := by
  have first := takeTile_bufferBusy (b := .tb0) h
  exact (takeTile_bufferBusy (b := .tb1) (s := takeTile .tb0 s) (by rwa [first])).trans first

/-- R125: every tile of a finished map has a finished entry. -/
theorem entryAt_finished {m : List TileState} (h : ∀ x ∈ m, isFinished x = true) (t : Tile) :
    isFinished (entryAt m t) = true := by
  by_cases hl : tileIndex t < m.length
  · rw [entryAt, List.getD_eq_getElem _ _ hl]
    exact h _ (List.getElem_mem hl)
  · rw [entryAt_beyond (Nat.not_lt.1 hl)]
    rfl

/-- R131: a finished entry begins no operation. -/
theorem startTile_finished {b : BufferId} {t : Tile} {s : State} (h : isFinished (entryAt s.engine.map t) = true) :
    startTile b t s = s := by
  unfold startTile
  split
  · rename_i hm; rw [hm] at h; cases h
  · rename_i hk; rw [hk] at h; cases h
  · rfl

/-- R131: over a finished map a take leaves the map and the buffers as they are. -/
theorem takeTile_finished {b : BufferId} {s : State} (h : ∀ x ∈ s.engine.map, isFinished x = true) :
    (takeTile b s).engine.map = s.engine.map ∧ (takeTile b s).engine.tb0 = s.engine.tb0 ∧
      (takeTile b s).engine.tb1 = s.engine.tb1 := by
  have starts : ∀ (t : Tile) (x : State), x.engine.map = s.engine.map → startTile b t x = x := fun t x hx =>
    startTile_finished (by rw [hx]; exact entryAt_finished h t)
  unfold takeTile
  repeat' split
  · rw [starts, (promoteHeld_spec _).1]
    · exact ⟨rfl, rfl, rfl⟩
    · rfl
  · exact ⟨rfl, rfl, rfl⟩
  · rw [starts]
    · exact ⟨rfl, rfl, rfl⟩
    · rfl
  · exact ⟨rfl, rfl, rfl⟩
  · exact ⟨rfl, rfl, rfl⟩

/-- R131: over a finished map the takes of both buffers leave the map and the buffers as they are. -/
theorem takeTiles_finished {s : State} (h : ∀ x ∈ s.engine.map, isFinished x = true) :
    (takeTiles s).engine.map = s.engine.map ∧ (takeTiles s).engine.tb0 = s.engine.tb0 ∧
      (takeTiles s).engine.tb1 = s.engine.tb1 := by
  obtain ⟨m0, a0, b0⟩ := takeTile_finished (b := .tb0) h
  obtain ⟨m1, a1, b1⟩ := takeTile_finished (b := .tb1) (s := takeTile .tb0 s) (by rw [m0]; exact h)
  exact ⟨m1.trans m0, a1.trans a0, b1.trans b0⟩

/-- R131: an entry that is not finished before the takes is not finished after them. -/
theorem takeTiles_unfinished {s : State} (h : ∀ x ∈ (takeTiles s).engine.map, isFinished x = true) :
    ∀ x ∈ s.engine.map, isFinished x = true := by
  obtain ⟨-, -, length, entries, -⟩ := takeTiles_spec s
  intro x hx
  obtain ⟨i, hi, rfl⟩ := List.getElem_of_mem hx
  have index : tileIndex { col := i, row := 0 } = i := by simp [tileIndex]
  have here : entryAt s.engine.map { col := i, row := 0 } = s.engine.map[i] := by
    rw [entryAt, index, List.getD_eq_getElem _ _ hi]
  have after := entryAt_finished h { col := i, row := 0 }
  rcases entries { col := i, row := 0 } with e | ⟨b, e⟩
  · rwa [e, here] at after
  · rw [e, here] at after
    revert after
    cases s.engine.map[i] <;> simp [takenBy, isFinished]

/-- R112: taking tiles neither completes a relocation nor undoes its completion. -/
theorem relocationComplete_takeTiles (s : State) :
    relocationComplete (takeTiles s).engine = relocationComplete s.engine := by
  obtain ⟨hold, -⟩ := takeTiles_spec s
  have busy : ∀ o, bufferOf o (takeTiles s).engine = .empty → bufferOf o s.engine = .empty := fun o he => by
    by_contra hb
    exact hb ((takeTiles_bufferBusy hb).symm.trans he)
  refine Bool.eq_iff_iff.2 ?_
  rw [relocationComplete_iff, relocationComplete_iff, hold]
  constructor
  · rintro ⟨m, b0, b1, h⟩
    exact ⟨takeTiles_unfinished m, busy .tb0 b0, busy .tb1 b1, h⟩
  · rintro ⟨m, b0, b1, h⟩
    obtain ⟨map, tb0, tb1⟩ := takeTiles_finished m
    exact ⟨by rwa [map], by rw [tb0, b0], by rw [tb1, b1], h⟩

/-- R108: the part as the drain's end leaves it, before the engine takes tiles. -/
def drainEnded (p : Port) (tag : Tag) (rr : ReadyResponse) (s : State) : State :=
  { afterSending p tag rr s with
    ctrl := { s.ctrl with oldWrites := [], state := .relocating }
    engine := { s.engine with cursor := 0 } }

/-- R107, R108: the response of the last old write ends the drain. -/
theorem sendResponse_drained {p : Port} {tag : Tag} {rr : ReadyResponse} {s : State} (ht : rr.response.tag = tag)
    (ho : rr.origin = .surface) (hs : s.ctrl.state = .draining) (hk : s.ctrl.oldWrites = [(p, tag)]) :
    sendResponse p rr s = abortAfterTag p tag (completionTest (takeTiles (drainEnded p tag rr s))) := by
  have ctrl : (beforeLeaving p tag rr s).ctrl = s.ctrl := by simp [beforeLeaving]
  have engine : (beforeLeaving p tag rr s).engine = s.engine := by simp [beforeLeaving]
  have silent : (reportSent p rr s).notice = s.notice := by simp [reportSent, ho]
  rw [sendResponse_eq ht]
  congr 1
  simp only [leaveOldWrites, ctrl, hk, List.mem_singleton, if_true, onCtrl, hs, List.filter_cons, List.filter_nil, ne_eq,
    not_true_eq_false, decide_false, Bool.false_eq_true, if_false, and_self, enterRelocating, onEngine, engine]
  congr 2
  cases p <;> simp [drainEnded, beforeLeaving, afterSending, silent, setPort]

/-- Settles O13: the completion test at the drain's end, case by case. -/
theorem lastOldWriteEndsTheDrain : Obligations.LastOldWriteEndsTheDrain := by
  intro p tag rr s hr hn ho hs hk drained waiting
  have sent := sendResponse_drained (nextResponse_tag hn) ho hs hk
  have ctrl : (takeTiles drained).ctrl = drained.ctrl := by simp
  have panel : (takeTiles drained).frame.panel = s.frame.panel := by simp [drained, afterSending]
  have complete : relocationComplete (takeTiles drained).engine = relocationComplete s.engine :=
    relocationComplete_takeTiles drained
  have test := completionTest_spec (takeTiles drained)
  simp only [ctrl, complete, panel] at test
  refine ⟨complete, fun h => ?_, completionTest (takeTiles drained), fun h => ?_, fun h hp => ?_, fun h hl => ?_, ?_⟩
  · obtain ⟨map, -, -, hold⟩ := (relocationComplete_iff _).1 h
    exact ⟨(takeTiles_finished (s := drained) map).1, (takeTiles_spec drained).1.trans hold⟩
  · rw [test, if_neg (by simp [h])]
    exact ⟨rfl, ctrl⟩
  · rw [test, if_pos ⟨rfl, h⟩, if_neg (by simp [hp])]
  · rw [test, if_pos ⟨rfl, h⟩, if_pos hl]
    exact flip_eq waiting ▸ resolveSlot_spec (flipped waiting)
  · refine sends_cases (response_sends hr hn).1 sent ?_
    have ports : ∀ o, portOf o (completionTest (takeTiles drained)) = portOf o drained := fun o => by
      cases o <;> simp [portOf]
    rw [ports]
    cases p <;> rfl

end Sys2Proof.Machine
end

section
/-!
O40, first part: the requests that RESTART aborts (R2, R19, R45, R151; log 10).
-/
namespace Sys2Proof.Machine

/-! ## The intake places (R19) -/

theorem placeRequest_none {pl : Place} : placeRequest pl = none ↔ pl = .empty := by
  cases pl <;> simp [placeRequest]

/-- R19: a request in an intake place is answered at once, and the place is EMPTY, or waits on with the mark. -/
theorem placeAborts_cases {q : PortState} {w : Request} (h : placeRequest q.place = some w) :
    (placeAborts q = [w] ∧ placeAfterAbort q = .empty) ∨
      (placeAborts q = [] ∧ placeAfterAbort q = .waitTag w true) := by
  unfold placeAborts placeAfterAbort
  cases hp : q.place with
  | empty => rw [hp] at h; cases h
  | waitTag r m =>
    rw [hp] at h
    cases h
    dsimp only
    split
    · exact .inr ⟨rfl, rfl⟩
    · exact .inl ⟨rfl, rfl⟩
  | waitTable | waitHold | waitOrder =>
    rw [hp] at h
    cases h
    exact .inl ⟨rfl, rfl⟩

/-- R19: the request answered is the one that stands in a place that becomes EMPTY. -/
theorem mem_placeAborts {q : PortState} {w : Request} (h : placeRequest q.place = some w) :
    (w ∈ placeAborts q ↔ placeAfterAbort q = .empty) ∧ (w ∉ placeAborts q ↔ placeAfterAbort q = .waitTag w true) := by
  rcases placeAborts_cases h with ⟨ha, hp⟩ | ⟨ha, hp⟩ <;> simp [ha, hp]

/-- R2: responses that become ready together are one group at the end, and none where there are none. -/
theorem appendGroup_cases (l : List (List ReadyResponse)) (g : List ReadyResponse) :
    ∃ gs, appendGroup l g = l ++ gs ∧ gs.length ≤ 1 ∧ ∀ x ∈ gs, x = g := by
  unfold appendGroup
  split
  · exact ⟨[], by simp⟩
  · exact ⟨[g], by simp⟩

theorem mem_appendGroup {l : List (List ReadyResponse)} {g : List ReadyResponse} {x : ReadyResponse} (h : x ∈ g) :
    ∃ y ∈ appendGroup l g, x ∈ y := by
  unfold appendGroup
  split
  · rename_i he
    rw [List.isEmpty_iff.1 he] at h
    cases h
  · exact ⟨g, by simp, h⟩

/-- R19, R151: the responses to a port's held requests. -/
theorem mem_heldAborts {q : Port} {s : State} {x : ReadyResponse} : x ∈ heldAborts q s ↔
    ∃ k c, (q, k) ∈ s.engine.hold ∧ contextOf (q, k) s = some c ∧
      x = { response := abortedResponse k c.kind c.count, origin := .aborted } := by
  simp only [heldAborts, List.mem_filterMap, List.mem_filter, beq_iff_eq, Option.map_eq_some_iff]
  constructor
  · rintro ⟨⟨_, k⟩, ⟨hk, rfl⟩, c, hc, rfl⟩
    obtain ⟨-, -, ht⟩ := contextOf_some hc
    exact ⟨k, c, hk, hc, by rw [ht]; rfl⟩
  · rintro ⟨k, c, hk, hc, rfl⟩
    obtain ⟨-, -, ht⟩ := contextOf_some hc
    exact ⟨(q, k), ⟨hk, rfl⟩, c, hc, by rw [ht]; rfl⟩

/-- R19: what RESTART aborts depends on the ports, the held requests and the contexts alone. -/
theorem abortWaiting_congr {x y : State} (h0 : y.up0 = x.up0) (h1 : y.up1 = x.up1)
    (hh : y.engine.hold = x.engine.hold) (hc : y.contexts = x.contexts) :
    (∀ q, portOf q (abortWaiting y) = portOf q (abortWaiting x)) ∧
      (abortWaiting y).contexts = (abortWaiting x).contexts := by
  have held : ∀ q, heldAborts q y = heldAborts q x := fun q => by simp only [heldAborts, contextOf, hh, hc]
  have port : ∀ q, portOf q y = portOf q x := fun q => by cases q <;> assumption
  refine ⟨fun q => by rw [abortWaiting_port, abortWaiting_port, held, port], ?_⟩
  simp [abortWaiting, abortedKeys, abortPort, h0, h1, hh, hc]

/-! ## What the request that brings RESTART finds waiting -/

section
variable {p q : Port} {r : Request} {s : State}

theorem forwarded_place : (portOf q (forwarded p r s)).place = (portOf q s).place := by
  cases p <;> cases q <;> rfl

theorem forwarded_ready :
    (portOf q (forwarded p r s)).ready = (portOf q s).ready ∧
      (portOf q (forwarded p r s)).sent = (portOf q s).sent := by
  cases p <;> cases q <;> exact ⟨rfl, rfl⟩

/-- The port that brought the request has an EMPTY place, so a port where a request waits is the other one. -/
theorem forwarded_waiting {w : Request} (ht : TakesTag p r.tag s) (hw : placeRequest (portOf q s).place = some w) :
    portOf q (forwarded p r s) = portOf q s := by
  by_cases h : q = p
  · rw [h, ht.1] at hw; cases hw
  · exact portOf_setPort_other _ h _

/-- R19: an intake place after RESTART. -/
theorem aborted_place (ht : TakesTag p r.tag s) :
    placeAfterAbort (portOf q (forwarded p r s)) = (match (portOf q s).place with
      | .waitTag w _ => if tagOutstanding q w.tag s then .waitTag w true else .empty
      | _ => .empty) := by
  cases hw : placeRequest (portOf q s).place with
  | none =>
    simp only [placeAfterAbort, forwarded_place, placeRequest_none.1 hw]
  | some w =>
    rw [forwarded_waiting ht hw]
    unfold placeAfterAbort
    split <;> simp_all [tagOutstanding]

/-- R19, log 10: a request answered before its acceptance has its tag outstanding until that is sent. -/
theorem aborted_tags (ht : TakesTag p r.tag s) :
    ((placeAborts (portOf q (forwarded p r s))).map (·.tag)).filter
        (fun t => !(portOf q (forwarded p r s)).tags.contains t) =
      (match placeRequest (portOf q s).place with
        | some w => if tagOutstanding q w.tag s then [] else [w.tag]
        | none => []) := by
  cases hw : placeRequest (portOf q s).place with
  | none =>
    have answered : placeAborts (portOf q (forwarded p r s)) = [] := List.eq_nil_iff_forall_not_mem.2 fun w hm => by
      have stands := placeAborts_request hm
      rw [forwarded_place, hw] at stands
      cases stands
    rw [answered]
    rfl
  | some w =>
    rw [forwarded_waiting ht hw]
    rcases placeAborts_cases hw with ⟨ha, -⟩ | ⟨ha, hp⟩
    · by_cases hc : w.tag ∈ (portOf q s).tags <;> simp [ha, tagOutstanding, hc]
    · have outstanding : tagOutstanding q w.tag s = true := by
        unfold placeAfterAbort at hp
        cases hq : (portOf q s).place <;> rw [hq] at hp hw <;> simp_all [placeRequest, tagOutstanding]
      simp [ha, outstanding]

/-- R19, R151: the responses RESTART makes ready at a port. -/
theorem mem_aborted_group {x : ReadyResponse} :
    x ∈ (placeAborts (portOf q (forwarded p r s))).map abortedRequest ++ heldAborts q (forwarded p r s) ↔
      (∃ w, placeRequest (portOf q s).place = some w ∧ placeAfterAbort (portOf q (forwarded p r s)) = .empty ∧
        x = { response := abortedResponse w.tag (bodyKind w.body) (bodyCount w.body), origin := .aborted }) ∨
      ∃ k c, (q, k) ∈ s.engine.hold ∧ contextOf (q, k) s = some c ∧
        x = { response := abortedResponse k c.kind c.count, origin := .aborted } := by
  have held : heldAborts q (forwarded p r s) = heldAborts q s := by
    simp only [heldAborts, contextOf, forwarded_engine, forwarded_contexts]
  rw [List.mem_append, held, mem_heldAborts, List.mem_map]
  refine or_congr_left ⟨fun ⟨w, hm, hx⟩ => ?_, fun ⟨w, hw, he, hx⟩ => ?_⟩
  · have hw := placeAborts_request hm
    exact ⟨w, forwarded_place (r := r) ▸ hw, (mem_placeAborts hw).1.1 hm, hx.symm⟩
  · rw [← forwarded_place (p := p) (r := r)] at hw
    exact ⟨w, (mem_placeAborts hw).1.2 he, hx.symm⟩

/-- R19, R45: the contexts that stay are those of requests neither held nor answered in their place. -/
theorem mem_aborted_contexts {c : Context} : c ∈ (abortWaiting (forwarded p r s)).contexts ↔
    c ∈ s.contexts ∧ (c.port, c.tag) ∉ s.engine.hold ∧
      ∀ w, placeRequest (portOf c.port s).place = some w → w.tag = c.tag →
        placeAfterAbort (portOf c.port (forwarded p r s)) = .waitTag w true := by
  have keys : c ∈ (abortWaiting (forwarded p r s)).contexts ↔
      c ∈ s.contexts ∧ (c.port, c.tag) ∉ abortedKeys (forwarded p r s) := by
    simp [abortWaiting, abortPort]
  rw [keys, mem_abortedKeys, forwarded_engine, not_or]
  refine and_congr_right fun _ => and_congr_right fun _ => ⟨fun h w hw ht => ?_, fun h => ?_⟩
  · rw [← forwarded_place (p := p) (r := r)] at hw
    exact (mem_placeAborts hw).2.1 fun hm => h ⟨w, hm, ht⟩
  · rintro ⟨w, hm, ht⟩
    have hw := placeAborts_request hm
    have stays := h w (forwarded_place (r := r) ▸ hw) ht
    rw [(mem_placeAborts hw).1.1 hm] at stays
    cases stays

end

end Sys2Proof.Machine
end

section
/-!
O40, second part: what RESTART makes of the engine, the notice unit and the controller (R118, R124, R151, R152, R160,
R161, R166, R170).
-/
namespace Sys2Proof.Machine

/-! ## The engine (R151, R152) -/

/-- R151, R152: a buffer with requests unanswered discards their answers, and one with none is EMPTY. -/
theorem discardBuffer_eq (x : TileBuffer) : discardBuffer x = match x with
    | .empty => .empty
    | .reading r => if r.answered < r.issued then .discarding (r.issued - r.answered) else .empty
    | .writing w => if w.answered < w.issued then .discarding (w.issued - w.answered) else .empty
    | .discarding n => .discarding n := by
  unfold discardBuffer
  cases x with
  | empty => rfl
  | discarding n => rfl
  | reading r =>
    dsimp only
    by_cases h : r.answered < r.issued
    · rw [if_neg (by omega), if_pos h]
    · rw [if_pos (by omega), if_neg h]
  | writing w =>
    dsimp only
    by_cases h : w.answered < w.issued
    · rw [if_neg (by omega), if_pos h]
    · rw [if_pos (by omega), if_neg h]

/-- `t` is `s` but for the notice unit. -/
def OnlyNotice (s t : State) : Prop := t = { s with notice := t.notice }

section
variable {s t : State} (h : OnlyNotice s t)
include h

theorem OnlyNotice.onEngine (f : Engine → Engine) : OnlyNotice (onEngine f s) (onEngine f t) := by
  rw [OnlyNotice, h]; rfl

theorem OnlyNotice.startTile (b : BufferId) (u : Tile) : OnlyNotice (startTile b u s) (startTile b u t) := by
  rw [OnlyNotice, h]
  unfold Machine.startTile
  dsimp only
  cases entryAt s.engine.map u <;> rfl

theorem OnlyNotice.promoteHeld : OnlyNotice (promoteHeld s) (promoteHeld t) := by
  rw [OnlyNotice, h, promoteHeld_eq, promoteHeld_eq]
  rfl

/-- R131: what a buffer takes does not depend on the notice unit. -/
theorem OnlyNotice.takeTile (b : BufferId) : OnlyNotice (takeTile b s) (takeTile b t) := by
  obtain ⟨buffer, offer, pass, cursor⟩ : bufferOf b t.engine = bufferOf b s.engine ∧
      promotionOffer t = promotionOffer s ∧ t.ctrl = s.ctrl ∧ ∀ wanted, cursorOffer wanted t = cursorOffer wanted s := by
    rw [h]
    exact ⟨rfl, rfl, rfl, fun _ => rfl⟩
  unfold Machine.takeTile
  rw [buffer, offer, pass]
  simp only [cursor]
  cases bufferOf b s.engine with
  | empty =>
    cases promotionOffer s with
    | some u => exact ((h.onEngine _).startTile b u).promoteHeld
    | none =>
      cases cursorPass s.ctrl with
      | none => exact h
      | some wanted =>
        dsimp only
        cases cursorOffer wanted s with
        | none => exact h.onEngine _
        | some o => exact (h.onEngine _).startTile b o.2
  | reading | writing | discarding => exact h

theorem OnlyNotice.takeTiles_engine : (takeTiles t).engine = (takeTiles s).engine := by
  have taken : OnlyNotice (takeTiles s) (takeTiles t) := (h.takeTile .tb0).takeTile .tb1
  rw [taken]

end

/-- R130, R131: in a restart drain nothing is offered and nothing taken. -/
theorem takeTiles_restartDrain {s : State} (hs : s.ctrl.state = .draining) (hd : s.ctrl.drainKind = .restart) :
    takeTiles s = s := by
  have none_ : ∀ b, takeTile b s = s := fun b => by
    unfold takeTile
    simp only [promotionOffer, cursorPass, hs, hd]
    split <;> rfl
  simp only [takeTiles, none_]

/-- R131, R147: with an empty promotion queue the takes come from the cursor: the queue stays empty and no tile is
promoted. -/
theorem takeTiles_unqueued {s : State} (h : s.engine.promotion = []) :
    (takeTiles s).engine.promotion = [] ∧ (takeTiles s).notice = s.notice := by
  have one : ∀ b (x : State), x.engine.promotion = [] →
      (takeTile b x).engine.promotion = [] ∧ (takeTile b x).notice = x.notice := fun b x hx => by
    have offer : promotionOffer x = none := by
      unfold promotionOffer
      split <;> simp [hx]
    unfold takeTile
    rw [offer]
    repeat' split
    · rename_i h; cases h
    · exact ⟨hx, rfl⟩
    · exact ⟨(startTile_spec _ _ _).2.1.trans hx, by simp⟩
    · exact ⟨hx, rfl⟩
    · exact ⟨hx, rfl⟩
  obtain ⟨q0, n0⟩ := one .tb0 s h
  obtain ⟨q1, n1⟩ := one .tb1 _ q0
  exact ⟨q1, n1.trans n0⟩

/-! ## The notice unit (R160, R166, R170) -/

/-- R160: the counters, the frame count and the notice set are cleared. -/
theorem noticeRestart_eq (n : NoticeUnit) : noticeRestart n = { n with
    counters := Counters.zero, frameCount := 0, set := 0
    noticeWriter := if n.set = 0 then n.noticeWriter else writerChanged n.noticeWriter } := by
  unfold noticeRestart clearKinds
  dsimp only
  split
  · rename_i h; rw [← h]
  · rfl

/-- R166: a change of what is due already makes nothing more due. -/
@[simp] theorem writerChanged_twice (w : WriterState) : writerChanged (writerChanged w) = writerChanged w := by
  cases w <;> rfl

/-- R166: a writer that becomes ready joins the end of the order. -/
theorem refreshQueue_joins {n : NoticeUnit} {w : RecordWriter} (hr : writerReady n w = true)
    (hq : ∀ g ∈ n.readyQueue, w ∉ g) : ∃ before last, refreshQueue n = before ++ [last] ∧ w ∈ last ∧
      ∀ g ∈ before, w ∉ g := by
  have kept : ∀ g ∈ keepWriters (writerReady n) n.readyQueue, w ∉ g := fun g hg hw => by
    obtain ⟨g', hg', hw'⟩ := List.mem_flatten.1 (mem_flatten_keepWriters.1 (List.mem_flatten.2 ⟨g, hg, hw⟩)).1
    exact hq g' hg' hw'
  have absent : w ∉ (keepWriters (writerReady n) n.readyQueue).flatten := fun h => by
    obtain ⟨g, hg, hw⟩ := List.mem_flatten.1 h
    exact kept g hg hw
  obtain ⟨fresh, hf⟩ : ∃ fresh, fresh = allWriters.filter fun w =>
    writerReady n w && !(keepWriters (writerReady n) n.readyQueue).flatten.contains w := ⟨_, rfl⟩
  have joins : w ∈ fresh := by
    rw [hf, List.mem_filter]
    exact ⟨by cases w <;> decide, by simp [hr, absent]⟩
  refine ⟨_, fresh, ?_, joins, kept⟩
  unfold refreshQueue
  dsimp only
  rw [← hf, if_neg (by simpa using List.ne_nil_of_mem joins)]

/-- R166: at the end of an event a response that is ready and stands nowhere in the order joins its end. -/
theorem settleOutputs_response_joins (b : State) {t : State} (hr : writerReady t.notice .response = true)
    (hq : ∀ g ∈ t.notice.readyQueue, RecordWriter.response ∉ g) :
    ∃ before last, (settleOutputs b t).notice.readyQueue = before ++ [last] ∧ RecordWriter.response ∈ last ∧
      ∀ g ∈ before, RecordWriter.response ∉ g := by
  unfold settleOutputs
  dsimp only
  split
  · exact refreshQueue_joins hr hq
  · exact refreshQueue_joins hr hq

/-- R160, log 30: RESTART takes a response out of the order. -/
theorem discardReports_response (n : NoticeUnit) :
    ∀ g ∈ (discardReports n).readyQueue, RecordWriter.response ∉ g := by
  intro g hg hw
  have stays := (mem_flatten_keepWriters.1 (List.mem_flatten.2 ⟨g, hg, hw⟩)).2
  cases stays

end Sys2Proof.Machine
end

section
/-!
O40: RESTART, in LOADING and outside it (R19, R98, R118, R124, R151, R152, R160, R161, R166, R170).
-/
namespace Sys2Proof.Machine

/-! ## The part that takes RESTART (R153) -/

/-- R153: the part that takes a command with sequence `seq`, its request at the end of its path list. -/
def taking (p : Port) (r : Request) (seq : Byte) (s : State) : State :=
  onCmd (fun c => { c with lastSeq := seq }) (forwarded p r s)

section
variable (p : Port) (r : Request) (seq : Byte) (s : State)

@[simp] theorem taking_dn : (taking p r seq s).dn = s.dn := by simp [taking]
@[simp] theorem taking_contexts : (taking p r seq s).contexts = s.contexts := by simp [taking]
@[simp] theorem taking_monitor : (taking p r seq s).monitor = s.monitor := by simp [taking]
@[simp] theorem taking_ctrl : (taking p r seq s).ctrl = s.ctrl := by simp [taking]
@[simp] theorem taking_frame : (taking p r seq s).frame = s.frame := by simp [taking]
@[simp] theorem taking_engine : (taking p r seq s).engine = s.engine := by simp [taking]
@[simp] theorem taking_cmd : (taking p r seq s).cmd = { s.cmd with lastSeq := seq } := by simp [taking]
@[simp] theorem taking_notice : (taking p r seq s).notice = s.notice := by simp [taking]
@[simp] theorem taking_boot : (taking p r seq s).boot = s.boot := by simp [taking]
@[simp] theorem taking_pins : (taking p r seq s).pins = s.pins := by simp [taking]
@[simp] theorem taking_now : (taking p r seq s).now = s.now := by simp [taking]
@[simp] theorem taking_freeUses : (taking p r seq s).freeUses = s.freeUses := by simp [taking]
@[simp] theorem taking_pending : (taking p r seq s).pending = s.pending := by simp [taking]

end

/-- R153, R154: RESTART with a new sequence is taken. -/
theorem restart_runs {p : Port} {tag : Tag} {seq : Byte} {arg : BitVec 16} {s : State} (h : Released s)
    (ht : TakesTag p tag s) (hne : seq ≠ s.cmd.lastSeq) : exec (.restart p tag seq arg) s =
      .next (settleOutputs s (takeRestart seq (taking p (commandRequest tag seq 0x0F arg) seq s))) :=
  (present_command_new h ht seq 0x0F arg hne).trans (by simp [runCommand, taking])

/-! ## What both branches leave (R98, R160 step 4, R161) -/

/-- R98, R161: the fallback timer is IDLE in LOADING and starts outside it. -/
theorem monitorRestart_fallback (s : State) :
    (s.ctrl.state = .loading → (monitorRestart s).monitor.fallback = .idle) ∧
      ∀ tb, s.ctrl.state ≠ .loading → s.cmd.shadow = some tb →
        (monitorRestart s).monitor.fallback = .running (s.now + tb.fallbackMs * 1000) := by
  simp only [monitorRestart, onMonitor]
  refine ⟨fun h => by simp [h], fun tb h ht => ?_⟩
  cases hs : s.ctrl.state <;> simp_all

/-- R151: the requests that wait are gone from the hold queue, and nothing else of the engine changes. -/
theorem abortWaiting_engine (s : State) : (abortWaiting s).engine = { s.engine with hold := [] } := by
  simp [abortWaiting, abortPort]

/-! ## RESTART outside LOADING (R160) -/

/-- R160 steps 1 to 4: the part before the commit. -/
def restartCleared (s : State) : State :=
  onNotice noticeRestart <| monitorRestart <| onEngine engineRestart <| abortWaiting <|
    onNotice discardReports (abandonLoad s)

/-- R118, R160 step 5: the part as the commit of record `r` leaves it before the engine takes tiles. -/
def restartCommitting (target : RecordCopy) (map : List TileState) (s : State) : State :=
  committing (if outstandingWrites (restartCleared s) = [] then s.ctrl.drainKind else .restart) target none map
    (onCtrl (fun c => { c with slot := none, loadHold := false, active := none, target := none, old := none })
      (restartCleared s))

/-- R118, R160: the commit gives the map the entries of the plan, and DONE is formed. -/
theorem restartRunning_eq {seq : Byte} {s : State} {tb : Table} {r : LayoutRecord} (hs : s.cmd.shadow = some tb)
    (hr : tableRecord tb 0 = some r) : ∃ map : List TileState, map.length = 4860 ∧
      (∀ tile, OnPanel tile → entryAt map tile = planEntry (copyRecord tb r) none tile) ∧
      restartRunning seq s = respond seq .done 0 (takeTiles (restartCommitting (copyRecord tb r) map s)) := by
  have target : bootTarget (onCtrl (fun c => { c with
      slot := none, loadHold := false, active := none, target := none, old := none }) (restartCleared s)) =
      copyRecord tb r := by
    have shadow : (restartCleared s).cmd.shadow = some tb := by
      simp [restartCleared, monitorRestart, abandonLoad, onCmd, hs]
    simp only [bootTarget, onCtrl_cmd, shadow, hr]
  have ctrl : (restartCleared s).ctrl = s.ctrl := by simp [restartCleared]
  obtain ⟨map, length, entries, begun⟩ := (beginTransition_spec
    (if outstandingWrites (restartCleared s) = [] then s.ctrl.drainKind else .restart) (copyRecord tb r) none
    (onCtrl (fun c => { c with slot := none, loadHold := false, active := none, target := none, old := none })
      (restartCleared s))).1.begun
  refine ⟨map, length, entries, ?_⟩
  have commit : restartRunning seq s = respond seq .done 0 (restartCommit (restartCleared s)) := rfl
  rw [commit, restartCommit, target, restartCommitting, ← begun]
  rw [← ctrl]
  rfl

section
variable (target : RecordCopy) (map : List TileState) (s : State)

theorem restartCommitting_engine : (restartCommitting target map s).engine = { s.engine with
    hold := [], promotion := [], map := map, cursor := 0
    tb0 := discardBuffer s.engine.tb0, tb1 := discardBuffer s.engine.tb1 } := by
  simp [restartCommitting, committing, restartCleared, abortWaiting_engine, engineRestart]

theorem restartCommitting_ctrl : (restartCommitting target map s).ctrl = { s.ctrl with
    slot := none, loadHold := false, active := none, target := some target, old := none
    generation := s.ctrl.generation + 1, oldWrites := outstandingWrites (restartCleared s)
    drainKind := if outstandingWrites (restartCleared s) = [] then s.ctrl.drainKind else .restart
    state := if outstandingWrites (restartCleared s) = [] then .relocating else .draining } := by
  have writes : ∀ f, outstandingWrites (onCtrl f (restartCleared s)) = outstandingWrites (restartCleared s) :=
    fun _ => rfl
  have ctrl : (restartCleared s).ctrl = s.ctrl := by simp [restartCleared]
  simp [restartCommitting, committing, writes, ctrl]

theorem restartCommitting_notice : (restartCommitting target map s).notice = { discardReports s.notice with
    counters := Counters.zero, frameCount := 0, set := kindBit .transitionBegun
    noticeWriter := writerChanged s.notice.noticeWriter } := by
  have cleared : (restartCleared s).notice = noticeRestart (discardReports s.notice) := by simp [restartCleared]
  have writer : (discardReports s.notice).noticeWriter = s.notice.noticeWriter := rfl
  have once : writerChanged (if (discardReports s.notice).set = 0 then s.notice.noticeWriter
      else writerChanged s.notice.noticeWriter) = writerChanged s.notice.noticeWriter := by
    split
    · rfl
    · exact writerChanged_twice _
  simp only [restartCommitting, committing, onCtrl_notice, cleared, noticeRestart_eq, kindPending_zero,
    Bool.false_eq_true, if_false, writer, once]
  simp

theorem restartCommitting_monitor : (restartCommitting target map s).monitor = { s.monitor with
    h1 := hingeRestart s.monitor.h1, h2 := hingeRestart s.monitor.h2, candidate := none, settle := .idle
    override := none, fallback := (restartCommitting target map s).monitor.fallback } := by
  simp [restartCommitting, committing, restartCleared, monitorRestart, onMonitor]

theorem restartCommitting_fallback {tb : Table} (hl : s.ctrl.state ≠ .loading) (hs : s.cmd.shadow = some tb) :
    (restartCommitting target map s).monitor.fallback = .running (s.now + tb.fallbackMs * 1000) := by
  simp only [restartCommitting, committing, restartCleared, onCtrl_monitor, onNotice_monitor]
  refine ((monitorRestart_fallback _).2 tb (by simpa using hl) ?_).trans (by simp)
  simp [abandonLoad, onCmd, hs]

theorem restartCommitting_cmd : (restartCommitting target map s).cmd = (abandonLoad s).cmd := by
  simp [restartCommitting, committing, restartCleared]

/-- R124: what RESTART keeps outside LOADING. -/
theorem restartCommitting_keeps : (restartCommitting target map s).dn = s.dn ∧
    (restartCommitting target map s).frame = s.frame ∧ (restartCommitting target map s).boot = s.boot ∧
    (restartCommitting target map s).pins = s.pins ∧ (restartCommitting target map s).now = s.now ∧
    (restartCommitting target map s).freeUses = s.freeUses ∧ (restartCommitting target map s).pending = s.pending := by
  simp [restartCommitting, committing, restartCleared]

end

/-! ## The requests that wait (R19) -/

/-- `t` holds the ports and contexts that RESTART's aborts leave of `s`, and holds no request. -/
structure AbortedFrom (s t : State) : Prop where
  port : ∀ q, portOf q t = portOf q (abortWaiting s)
  contexts : t.contexts = (abortWaiting s).contexts
  hold : t.engine.hold = []

/-- R19, R151: the same aborts are made in and outside LOADING. -/
theorem AbortedFrom.of_congr {s x t : State} (h0 : x.up0 = s.up0) (h1 : x.up1 = s.up1)
    (hh : x.engine.hold = s.engine.hold) (hc : x.contexts = s.contexts) (t0 : t.up0 = (abortWaiting x).up0)
    (t1 : t.up1 = (abortWaiting x).up1) (tc : t.contexts = (abortWaiting x).contexts) (th : t.engine.hold = []) :
    AbortedFrom s t := by
  obtain ⟨port, contexts⟩ := abortWaiting_congr h0 h1 hh hc
  refine ⟨fun q => ?_, tc.trans contexts, th⟩
  rw [← port]
  cases q
  · exact t0
  · exact t1

section
variable {p : Port} {r : Request} {s t : State} (h : AbortedFrom (forwarded p r s) t)
include h

theorem AbortedFrom.place (q : Port) : (portOf q t).place = placeAfterAbort (portOf q (forwarded p r s)) := by
  rw [h.port, abortWaiting_port]

theorem AbortedFrom.ready (q : Port) : (portOf q t).ready = appendGroup (portOf q s).ready
    ((placeAborts (portOf q (forwarded p r s))).map abortedRequest ++ heldAborts q (forwarded p r s)) := by
  rw [h.port, abortWaiting_port, ← (forwarded_ready (p := p) (q := q) (r := r) (s := s)).1]

theorem AbortedFrom.tags (ht : TakesTag p r.tag s) (q : Port) :
    (portOf q t).tags = (portOf q (forwarded p r s)).tags ++ (match placeRequest (portOf q s).place with
      | some w => if tagOutstanding q w.tag s then [] else [w.tag]
      | none => []) := by
  rw [h.port, abortWaiting_port]
  exact congrArg _ (aborted_tags ht)

/-- R2, R19: every request answered has its ABORTED among the port's ready responses. -/
theorem AbortedFrom.answers {q : Port} {x : ReadyResponse}
    (hx : (∃ w, placeRequest (portOf q s).place = some w ∧ (portOf q t).place = .empty ∧
        x = { response := abortedResponse w.tag (bodyKind w.body) (bodyCount w.body), origin := .aborted }) ∨
      ∃ k c, (q, k) ∈ s.engine.hold ∧ contextOf (q, k) s = some c ∧
        x = { response := abortedResponse k c.kind c.count, origin := .aborted }) :
    ∃ g ∈ (portOf q t).ready, ∃ rr ∈ g, rr.response = x.response := by
  rw [h.place] at hx
  obtain ⟨g, hg, hm⟩ := mem_appendGroup (l := (portOf q s).ready) (mem_aborted_group.2 hx)
  exact ⟨g, by rwa [h.ready], x, hm, rfl⟩

/-- R2, R19: a port gets one group of responses at most, and no response but these. -/
theorem AbortedFrom.group (q : Port) : ∃ gs, (portOf q t).ready = (portOf q s).ready ++ gs ∧ gs.length ≤ 1 ∧
    ∀ g ∈ gs, ∀ rr ∈ g,
      (∃ w, placeRequest (portOf q s).place = some w ∧ (portOf q t).place = .empty ∧
        rr = { response := abortedResponse w.tag (bodyKind w.body) (bodyCount w.body), origin := .aborted }) ∨
      ∃ k c, (q, k) ∈ s.engine.hold ∧ contextOf (q, k) s = some c ∧
        rr = { response := abortedResponse k c.kind c.count, origin := .aborted } := by
  rw [h.ready, h.place]
  obtain ⟨gs, e, one, all⟩ := appendGroup_cases (portOf q s).ready
    ((placeAborts (portOf q (forwarded p r s))).map abortedRequest ++ heldAborts q (forwarded p r s))
  exact ⟨gs, e, one, fun g hg rr hr => mem_aborted_group.1 (all g hg ▸ hr)⟩

/-- R19, log 10: a request answered in its place has its tag outstanding. -/
theorem AbortedFrom.outstanding (ht : TakesTag p r.tag s) {q : Port} {w : Request}
    (hw : placeRequest (portOf q s).place = some w) : tagOutstanding q w.tag t = true := by
  rw [tagOutstanding, h.tags ht, hw, forwarded_waiting ht hw]
  dsimp only
  by_cases hc : tagOutstanding q w.tag s = true
  · rw [tagOutstanding] at hc
    simp [List.contains_iff_mem.1 hc]
  · simp [hc]

end

/-! ## What both branches leave of the rest -/

/-- `t` has the values RESTART gives in every state, from `s`, with sequence `seq`. -/
structure Afresh (seq : Byte) (s t : State) : Prop where
  monitor : t.monitor = { s.monitor with
    h1 := hingeRestart s.monitor.h1, h2 := hingeRestart s.monitor.h2, candidate := none, settle := .idle
    override := none, fallback := t.monitor.fallback }
  counted : t.notice.frameCount = 0 ∧ t.notice.counters = Counters.zero
  formed : t.notice.responseNext = some { seq := seq, result := .done, detail := 0 }
  writers : t.notice.hostWrites = s.notice.hostWrites ∧ t.notice.responseBusy = s.notice.responseBusy
  kept : t.dn = s.dn ∧ t.frame = s.frame ∧ t.boot = s.boot ∧ t.pins = s.pins ∧ t.now = s.now ∧
    t.freeUses = s.freeUses ∧ t.pending = s.pending
  cmd : t.cmd.lastSeq = seq ∧ t.cmd.shadow = s.cmd.shadow ∧ t.cmd.source = s.cmd.source

section
variable {p : Port} {r : Request} {seq : Byte} {s b : State}

/-- R161: RESTART in LOADING. -/
theorem restartLoading_afresh : Afresh seq s (settleOutputs b (restartLoading seq (taking p r seq s))) where
  monitor := by simp [restartLoading, monitorRestart, onMonitor]
  counted := by simp [restartLoading, noticeRestart_eq, respond, formResponse]
  formed := by simp [restartLoading, respond, formResponse]
  writers := by simp [restartLoading, noticeRestart_eq, respond, formResponse]
  kept := by simp
  cmd := by simp [restartLoading]

theorem restartLoading_aborted :
    AbortedFrom (forwarded p r s) (settleOutputs b (restartLoading seq (taking p r seq s))) :=
  .of_congr (x := taking p r seq s) rfl rfl rfl rfl rfl rfl rfl (by simp [restartLoading, abortWaiting_engine])

variable {target : RecordCopy} {map : List TileState}

/-- R160: RESTART outside LOADING. -/
theorem restartRunning_afresh : Afresh seq s
    (settleOutputs b (respond seq .done 0 (takeTiles (restartCommitting target map (taking p r seq s))))) := by
  have queue : (restartCommitting target map (taking p r seq s)).engine.promotion = [] := by
    rw [restartCommitting_engine]
  have notice := (takeTiles_unqueued queue).2
  refine ⟨?_, ?_, ?_, ?_, ?_, ?_⟩
  · simp only [settleOutputs_monitor, respond_monitor, takeTiles_keeps]
    rw [restartCommitting_monitor, taking_monitor]
  · simp [respond, formResponse, notice, restartCommitting_notice]
  · simp [respond, formResponse]
  · simp [respond, formResponse, notice, restartCommitting_notice, discardReports]
  · simp [restartCommitting_keeps]
  · simp [restartCommitting_cmd, abandonLoad, onCmd]

theorem restartRunning_aborted : AbortedFrom (forwarded p r s)
    (settleOutputs b (respond seq .done 0 (takeTiles (restartCommitting target map (taking p r seq s))))) := by
  refine .of_congr (x := onNotice discardReports (abandonLoad (taking p r seq s))) rfl rfl rfl rfl ?_ ?_ ?_ ?_
  · simp [restartCommitting, committing, restartCleared]
  · simp [restartCommitting, committing, restartCleared]
  · simp [restartCommitting, committing, restartCleared]
  · simp only [settleOutputs_engine, respond_engine]
    rw [(takeTiles_spec _).1, restartCommitting_engine]

end

end Sys2Proof.Machine
end

section
/-!
O40: the statement, assembled.
-/
namespace Sys2Proof.Machine

/-- R160 step 1: a running load is abandoned. -/
theorem abandonLoad_load (s : State) : (s.cmd.load = none → (abandonLoad s).cmd.load = none) ∧
    ∀ l, s.cmd.load = some l → (l.inFlight = 0 → (abandonLoad s).cmd.load = none) ∧
      (l.inFlight ≠ 0 → (abandonLoad s).cmd.load = some { l with abandoned := true, toIssue := [] }) := by
  refine ⟨fun h => by simp [abandonLoad, onCmd, h], fun l h => ⟨fun h0 => ?_, fun h0 => ?_⟩⟩
  · simp [abandonLoad, onCmd, h, h0]
  · simp [abandonLoad, onCmd, h, h0]

section
variable {seq : Byte} {s b : State} {target : RecordCopy} {map : List TileState}

/-- R160: the part right after the commit and the formation of DONE, once the outputs have settled. -/
def restarted (seq : Byte) (b w : State) : State := settleOutputs b (respond seq .done 0 (takeTiles w))

/-- R131: the engine holds what the takes make of the commit's map and buffers, whatever the notice unit holds. -/
theorem restarted_engine {w : State} :
    (restarted seq b w).engine = (takeTiles { restarted seq b w with engine := w.engine }).engine := by
  have only : OnlyNotice w { restarted seq b w with engine := w.engine } := by
    apply State.eq_of_parts <;> simp [restarted]
  rw [only.takeTiles_engine]
  simp [restarted]

/-- R118: the controller after the boot transition's commit. -/
theorem restarted_ctrl : (restarted seq b (restartCommitting target map s)).ctrl = { s.ctrl with
    slot := none, loadHold := false, active := none, target := some target, old := none
    generation := s.ctrl.generation + 1, oldWrites := outstandingWrites (restartCleared s)
    drainKind := if outstandingWrites (restartCleared s) = [] then s.ctrl.drainKind else .restart
    state := if outstandingWrites (restartCleared s) = [] then .relocating else .draining } := by
  rw [← restartCommitting_ctrl target map s]
  simp [restarted]

/-- R118: the writes that the commit marks old are those outstanding after it. -/
theorem restarted_oldWrites : (restarted seq b (restartCommitting target map s)).ctrl.oldWrites =
    outstandingWrites (restarted seq b (restartCommitting target map s)) := by
  rw [restarted_ctrl]
  exact (outstandingWrites_congr (by simp [restarted, restartCommitting, committing])).symm

/-- R118: the commit relocates at once, or drains as RESTART. -/
theorem restarted_state :
    let c := (restarted seq b (restartCommitting target map s)).ctrl
    (c.oldWrites = [] → c.state = .relocating) ∧ (c.oldWrites ≠ [] → c.state = .draining ∧ c.drainKind = .restart) := by
  dsimp only
  rw [restarted_ctrl]
  exact ⟨fun h => if_pos h, fun h => ⟨if_neg h, if_neg h⟩⟩

/-- R118, R131: with an old write nothing is taken. -/
theorem restarted_drains (h : (restarted seq b (restartCommitting target map s)).ctrl.oldWrites ≠ []) :
    (restarted seq b (restartCommitting target map s)).engine = (restartCommitting target map s).engine := by
  obtain ⟨state, kind⟩ := restarted_state.2 h
  have none_taken := takeTiles_restartDrain (s := restartCommitting target map s) (by simpa [restarted] using state)
    (by simpa [restarted] using kind)
  simp [restarted, none_taken]

/-- R160, R163, R170: what RESTART leaves of the notice unit outside LOADING. -/
theorem restarted_notice :
    let n := (restarted seq b (restartCommitting target map s)).notice
    n.set = kindBit .transitionBegun ∧ n.noticeWriter = writerChanged s.notice.noticeWriter ∧ n.countsNext = none ∧
      n.countsBusy = s.notice.countsBusy.map (fun _ => { reports := [], overtaken := true }) ∧
      (s.notice.responseBusy = false → ∃ before last, n.readyQueue = before ++ [last] ∧
        RecordWriter.response ∈ last ∧ ∀ g ∈ before, RecordWriter.response ∉ g) := by
  have queue : (restartCommitting target map s).engine.promotion = [] := by rw [restartCommitting_engine]
  have notice : (respond seq .done 0 (takeTiles (restartCommitting target map s))).notice =
      formResponse seq .done 0 { discardReports s.notice with
        counters := Counters.zero, frameCount := 0, set := kindBit .transitionBegun
        noticeWriter := writerChanged s.notice.noticeWriter } := by
    rw [← restartCommitting_notice target map s, ← (takeTiles_unqueued queue).2]
    rfl
  dsimp only
  refine ⟨?_, ?_, ?_, ?_, fun hb => settleOutputs_response_joins b ?_ ?_⟩
  · rw [restarted, settleOutputs_set, notice]; rfl
  · rw [restarted, settleOutputs_noticeWriter, notice]; rfl
  · rw [restarted, settleOutputs_countsNext, notice]; rfl
  · rw [restarted, settleOutputs_countsBusy, notice]; rfl
  · rw [notice]; simp [writerReady, formResponse, discardReports, hb]
  · rw [notice]; exact discardReports_response s.notice

/-- R126, R131: an entry is the plan's, or in operation in a buffer that has taken its tile. -/
theorem restarted_entries (entries : ∀ tile, OnPanel tile → entryAt map tile = planEntry target none tile)
    {tile : Tile} (ht : OnPanel tile) :
    let m := (restarted seq b (restartCommitting target map s)).engine.map
    entryAt m tile = planEntry target none tile ∨ ∃ o, entryAt m tile = takenBy o (planEntry target none tile) := by
  obtain ⟨-, -, -, taken, -⟩ := takeTiles_spec (restartCommitting target map s)
  have base : entryAt (restartCommitting target map s).engine.map tile = planEntry target none tile := by
    rw [restartCommitting_engine]
    exact entries tile ht
  rw [← base]
  exact taken tile

end

/-- Settles O40: the aborts by `AbortedFrom`, the values of every state by `Afresh`, the rest by the branch taken. -/
theorem restartRebuildsLayoutZero : Obligations.RestartRebuildsLayoutZero := by
  intro p tag seq arg s hr ht hne aborts afresh
  have run := restart_runs (arg := arg) hr ht hne
  have aborted : ∀ t, AbortedFrom (forwarded p (commandRequest tag seq 0x0F arg) s) t → aborts t := by
    intro t h
    refine ⟨h.hold, fun q => ⟨?_, ?_, ?_, h.tags ht q, h.group q⟩, fun q w hw he => ⟨h.outstanding ht hw, ?_⟩,
      fun q k c hk hc => ?_, fun c => ?_⟩
    · exact (h.place q).trans (aborted_place ht)
    · rw [h.port, abortWaiting_port]
    · rw [h.port, abortWaiting_port]; exact forwarded_ready.2
    · exact h.answers (.inl ⟨w, hw, he, rfl⟩)
    · exact h.answers (.inr ⟨k, c, hk, hc, rfl⟩)
    · rw [h.contexts, mem_aborted_contexts]
      refine and_congr_right fun _ => and_congr_right fun _ => forall_congr' fun w => forall_congr' fun hw => ?_
      rw [h.place]
  have fresh : ∀ t, Afresh seq s t → afresh t := by
    intro t ⟨monitor, counted, formed, writers, kept, cmd⟩
    obtain ⟨dn, frame, boot, pins, now, freeUses, pending⟩ := kept
    refine ⟨fun h => by rw [monitor]; cases h <;> rfl, by rw [monitor], by rw [monitor], by rw [monitor],
      by rw [monitor], by rw [monitor], by rw [monitor], counted.1,
      fun i => by rw [counted.2, counterOf_zero]; rfl, formed, writers.1, writers.2, dn, frame, boot, pins, now, freeUses, pending, cmd⟩
  constructor
  · intro hl
    rw [takeRestart, if_pos (by rwa [taking_ctrl])] at run
    refine ⟨_, run, aborted _ restartLoading_aborted, fresh _ restartLoading_afresh, ?_, ?_, ?_, ?_, ?_, ?_, ?_, ?_⟩
    · simp [restartLoading]
    · simp [restartLoading, abortWaiting_engine]
    · exact (monitorRestart_fallback _).1 (by simpa using hl)
    · simp [restartLoading, noticeRestart_eq, respond, formResponse]
    · simp [restartLoading, noticeRestart_eq, respond, formResponse]
    · simp [restartLoading]
    · simp [restartLoading, noticeRestart_eq, respond, formResponse]
    · simp [restartLoading, noticeRestart_eq, respond, formResponse]
  · intro stopped tb r hl hs hr
    obtain ⟨x, hx⟩ : ∃ x, x = taking p (commandRequest tag seq 0x0F arg) seq s := ⟨_, rfl⟩
    have shadow : x.cmd.shadow = some tb := by rw [hx, taking_cmd]; exact hs
    obtain ⟨map, length, entries, running⟩ := restartRunning_eq (seq := seq) shadow hr
    rw [← hx, takeRestart, if_neg (by rwa [hx, taking_ctrl]), running] at run
    have engine : (restartCommitting (copyRecord tb r) map x).engine = { s.engine with
        hold := [], promotion := [], map := map, cursor := 0, tb0 := stopped .tb0, tb1 := stopped .tb1 } := by
      rw [restartCommitting_engine, hx, taking_engine, discardBuffer_eq, discardBuffer_eq]
      rfl
    have queue := (takeTiles_unqueued (s := restartCommitting (copyRecord tb r) map x) (by rw [engine])).1
    have ctrl := restarted_ctrl (seq := seq) (b := s) (target := copyRecord tb r) (map := map) (s := x)
    have cmd : (restarted seq s (restartCommitting (copyRecord tb r) map x)).cmd = (abandonLoad x).cmd := by
      simp [restarted, restartCommitting_cmd]
    obtain ⟨load, known, now⟩ : x.cmd.load = s.cmd.load ∧ x.ctrl = s.ctrl ∧ x.now = s.now := by rw [hx]; simp
    rw [known] at ctrl
    obtain ⟨set, writer, next, busy, order⟩ :=
      restarted_notice (seq := seq) (s := x) (b := s) (target := copyRecord tb r) (map := map)
    have fallback := restartCommitting_fallback (copyRecord tb r) map x (by rwa [known]) shadow
    have before : x.notice = s.notice := by rw [hx, taking_notice]
    rw [before] at writer busy order
    refine ⟨restarted seq s (restartCommitting (copyRecord tb r) map x), map, run,
      aborted _ (hx ▸ restartRunning_aborted), fresh _ (hx ▸ restartRunning_afresh), ⟨length, entries, ?_, ?_⟩, queue, ?_,
      fun tile => restarted_entries entries, ?_, by rw [ctrl], by rw [ctrl], by rw [ctrl], by rw [ctrl], by rw [ctrl],
      by rw [ctrl], restarted_oldWrites, by rw [ctrl], by rw [ctrl], restarted_state.1, restarted_state.2, ?_, ?_,
      set, writer, next, busy, order, ?_⟩
    · rw [← engine]; exact restarted_engine
    · rw [← engine]; exact restarted_drains
    · exact (takeTiles_spec _).2.1.trans (by rw [engine])
    · rw [← now, ← fallback]; simp [restarted]
    · rw [cmd, ← load]; exact (abandonLoad_load x).1
    · rw [cmd, ← load]; exact (abandonLoad_load x).2
    · intro o n ho
      have before : bufferOf o (restartCommitting (copyRecord tb r) map x).engine = .discarding n := by
        rw [engine, ← ho]
        cases o <;> rfl
      exact (takeTiles_bufferBusy (by rw [before]; nofun)).trans before

end Sys2Proof.Machine
end

section
/-!
O41: the ends of the boot loader's reads (R30, R172, R173).
-/
namespace Sys2Proof.Machine

/-- R176: the image length that a head of 16 bytes carries. -/
theorem imageLength_head {bytes : List Byte} (h : bytes.length = 16) :
    imageLength bytes = bytes[2]!.toNat + 256 * bytes[3]!.toNat := by
  simp [imageLength, half16At, byteAt, List.getD_eq_getElem?_getD, h]

/-- R173: the head read that ends in `s` runs to its end. -/
theorem bootHeadReadEnd_runs {bytes : List Byte} {s : State} (h : Released s) (hb : s.boot.state = .readHead)
    (hl : bytes.length = 16) :
    exec (.bootHeadReadEnd bytes) s = .next (settleOutputs s (headReadEnds bytes s)) := by
  simp only [exec, execBootHeadReadEnd, h.run, hb, hl, and_self, if_true]
  rfl

/-- R173: the body read that ends in `s` with as many bytes as were asked for runs to its end. -/
theorem bootBodyReadEnd_runs {bytes : List Byte} {q : SpiRead} {s : State} (h : Released s)
    (hb : s.boot.state = .readBody) (hq : s.boot.spi = some q) (hl : bytes.length = q.count) :
    exec (.bootBodyReadEnd bytes) s = .next (settleOutputs s (bodyReadEnds bytes s)) := by
  simp only [exec, execBootBodyReadEnd, h.run, hb, hq, hl, and_self, if_true]
  rfl

/-- R30, R173: where a check of the head fails, the loader enters CHECK and the link rests. -/
theorem headReadEnds_fails {bytes : List Byte} {s : State} (h : formatHeadFailure bytes ≠ none) :
    headReadEnds bytes s = restSpi { s with boot :=
      { state := .check, bytes := bytes, length := some (imageLength bytes), spi := none } } := by
  obtain ⟨d, hd⟩ := Option.ne_none_iff_exists'.1 h
  simp [headReadEnds, hd, onBoot]

/-- R30, R173: otherwise the body read begins at offset 16. -/
theorem headReadEnds_passes {bytes : List Byte} {s : State} (h : formatHeadFailure bytes = none) :
    headReadEnds bytes s = beginSpi 16 (imageLength bytes - 16) { s with boot :=
      { state := .readBody, bytes := bytes, length := some (imageLength bytes), spi := none } } := by
  simp [headReadEnds, h, onBoot]

/-- Settles O41: the two cases of the head's end, and the body's end. -/
theorem bootReadsEnd : Obligations.BootReadsEnd := by
  refine ⟨fun bytes s hr hb hl => ⟨_, bootHeadReadEnd_runs hr hb hl, ?_⟩,
    fun bytes q s hr hb hq hl => ⟨_, bootBodyReadEnd_runs hr hb hq hl, rfl, rfl, rfl, rfl, rfl, rfl, hr⟩⟩
  rw [← imageLength_head hl]
  by_cases hf : formatHeadFailure bytes = none
  · rw [headReadEnds_passes hf]
    exact ⟨rfl, rfl, rfl, rfl, rfl, hr, fun h => absurd hf h, fun _ => ⟨rfl, rfl, rfl⟩⟩
  · rw [headReadEnds_fails hf]
    exact ⟨rfl, rfl, rfl, rfl, rfl, hr, fun _ => ⟨rfl, rfl, rfl, rfl⟩, fun h => absurd h hf⟩

end Sys2Proof.Machine
end

section
/-!
O49: what the checksum sees of a change of one byte (R31).
-/
namespace Sys2Proof.Machine

/-- R31: the end-around carry is addition modulo 65535. -/
theorem endAroundAdd_mod (s w : Nat) : endAroundAdd s w % 65535 = (s + w) % 65535 := by
  unfold endAroundAdd
  split <;> omega

/-- R31: a running end-around-carry sum is, modulo 65535, the sum of its words. -/
theorem foldl_endAroundAdd_mod (f : Nat → Nat) (l : List Nat) (s : Nat) :
    l.foldl (fun s i => endAroundAdd s (f i)) s % 65535 = (s + (l.map f).sum) % 65535 := by
  induction l generalizing s with
  | nil => simp
  | cons i l ih =>
    rw [List.foldl_cons, ih, List.map_cons, List.sum_cons, ← Nat.add_assoc, Nat.add_mod, endAroundAdd_mod,
      ← Nat.add_mod]

/-- R31: the words of an image. -/
def imageWords (img : List Byte) : List Nat := (List.range (imageLength img / 2)).map fun i => half16At img (2 * i)

theorem imageChecksum_mod (img : List Byte) : imageChecksum img % 65535 = (imageWords img).sum % 65535 := by
  simpa [imageChecksum, imageWords] using
    foldl_endAroundAdd_mod (fun i => half16At img (2 * i)) (List.range (imageLength img / 2)) 0

/-- A byte of an image with one byte set. -/
theorem byteAt_set (img : List Byte) {i : Nat} (v : Byte) (hi : i < img.length) (j : Nat) :
    byteAt (img.set i v) j = if j = i then v.toNat else byteAt img j := by
  unfold byteAt
  by_cases h : j = i
  · subst h
    simp [List.getD_eq_getElem?_getD, hi]
  · simp [List.getD_eq_getElem?_getD, h, Ne.symm h]

/-- The image length does not change with a byte other than its own two. -/
theorem imageLength_set {img : List Byte} {i : Nat} (v : Byte) (hi : i < img.length) (h2 : i ≠ 2) (h3 : i ≠ 3) :
    imageLength (img.set i v) = imageLength img := by
  simp [imageLength, half16At, byteAt_set img v hi, Ne.symm h2, Ne.symm h3]

/-- A byte changes the word it stands in by its difference at its place, and no other word. -/
theorem half16At_set {img : List Byte} {i : Nat} (v : Byte) (hi : i < img.length) (k : Nat) :
    half16At (img.set i v) (2 * k) + (if k = i / 2 then (if i % 2 = 0 then 1 else 256) * byteAt img i else 0) =
      half16At img (2 * k) + (if k = i / 2 then (if i % 2 = 0 then 1 else 256) * v.toNat else 0) := by
  simp only [half16At, byteAt_set img v hi]
  by_cases hk : k = i / 2
  · rcases Nat.mod_two_eq_zero_or_one i with h | h
    · obtain rfl : i = 2 * k := by omega
      simp; omega
    · obtain rfl : i = 2 * k + 1 := by omega
      have : (2 * k + 1) / 2 = k := by omega
      simp [this]; omega
  · rw [if_neg (by omega), if_neg (by omega)]
    simp [hk]

/-- Of a list of different positions, one that stands in it is counted once. -/
theorem sum_map_ite_range {n k : Nat} (hk : k < n) (a : Nat) :
    ((List.range n).map fun i => if i = k then a else 0).sum = a := by
  have h : ∑ i ∈ Finset.range n, (if i = k then a else 0) = a := by simp [hk]
  simpa [Finset.sum, Finset.range, Multiset.range] using h

/-- R31: the words' sum changes by the difference of the byte at its place. -/
theorem sum_imageWords_set {img : List Byte} {i : Nat} (v : Byte) (he : imageLength img % 2 = 0)
    (hl : img.length = imageLength img) (hi : i < img.length) (h2 : i ≠ 2) (h3 : i ≠ 3) :
    (imageWords (img.set i v)).sum + (if i % 2 = 0 then 1 else 256) * byteAt img i =
      (imageWords img).sum + (if i % 2 = 0 then 1 else 256) * v.toNat := by
  have hk : i / 2 < imageLength img / 2 := by omega
  simp only [imageWords, imageLength_set v hi h2 h3]
  rw [← sum_map_ite_range hk ((if i % 2 = 0 then 1 else 256) * byteAt img i),
    ← sum_map_ite_range hk ((if i % 2 = 0 then 1 else 256) * v.toNat), ← List.sum_map_add, ← List.sum_map_add]
  simp only [half16At_set v hi]

/-- Settles O49: a change of one byte moves the words' sum by less than 65535 and not by 0. -/
theorem checksumSeesOneByte : Obligations.ChecksumSeesOneByte := by
  intro img i v he hl hi h2 h3 hv before after
  have moved := sum_imageWords_set v he hl hi h2 h3
  have was := imageChecksum_mod img
  have is := imageChecksum_mod (img.set i v)
  rw [before] at was
  rw [after] at is
  have differs : byteAt img i ≠ v.toNat := fun h => hv (by
    rw [List.getElem?_eq_getElem hi]
    simpa [byteAt, List.getD_eq_getElem?_getD, hi, BitVec.toNat_inj] using h)
  have old : byteAt img i < 256 := (img.getD i 0).isLt
  have new := v.isLt
  split at moved <;> omega

end Sys2Proof.Machine
end

section
/-!
O48: the panes of a valid image (R28, R35, R38, R39, R44).
-/
namespace Sys2Proof.Machine

/-- R28: a list of checks passes when each of them does. -/
theorem firstFailure_none {cs : List (Option Detail)} : firstFailure cs = none ↔ ∀ c ∈ cs, c = none := by
  simp [firstFailure]

/-- R28: a check passes where what it looks for is not there. -/
theorem failsIf_none {bad : Bool} {kind check : Nat} {first second : Option Nat} :
    failsIf bad kind check first second = none ↔ bad = false := by
  cases bad <;> simp [failsIf]

/-- R28: the checks that the panes and the layout numbers rest on pass in a valid image. -/
theorem validate_none {img : List Byte} (h : validate img = none) :
    formatHeadFailure img = none ∧ formatWalkFailure img = none ∧ layoutSetFailure img = none ∧
      paneSetFailure img = none ∧ overlapSetFailure img = none := by
  simp only [validate, Option.or_eq_none_iff] at h
  tauto

/-- R39: overlap does not depend on which pane comes first. -/
theorem panesOverlap_comm (p q : Pane) : panesOverlap p q = panesOverlap q p := by
  simp only [panesOverlap]
  grind

/-- The records of an image stand in the list of them with their indices. -/
theorem exists_mem_indexedPositions {img : List Byte} {pos : Nat} (h : pos ∈ recordPositions img) :
    ∃ i, (i, pos) ∈ indexedPositions img := by
  obtain ⟨i, hi, rfl⟩ := List.getElem_of_mem h
  refine ⟨i, List.mem_map.2 ⟨((recordPositions img)[i], i), ?_, rfl⟩⟩
  simp [List.mem_zipIdx_iff_getElem?]

/-- R38: a pane that passes the checks of PANE lies within the panel and is not empty. -/
theorem paneInside_of_check {img : List Byte} {i j q : Nat} (h : paneFailure img i j q = none) :
    PaneInside (imagePane img q) := by
  simp only [paneFailure, firstFailure_none, List.forall_mem_cons, failsIf_none, Bool.or_eq_false_iff,
    decide_eq_false_iff_not, beq_eq_false_iff_ne] at h
  obtain ⟨-, -, ⟨hw, hh⟩, -, ⟨hx, hy⟩, -⟩ := h
  exact ⟨by omega, by omega, by omega, by omega⟩

/-- R39: a pane that passes OVERLAP shares no tile with the panes before it. -/
theorem apart_of_check {panes : List Pane} {i j : Nat} (hj : j < panes.length)
    (h : overlapFailure panes i j = none) : ∀ k (hk : k < j), panesOverlap panes[k] panes[j] = false := by
  intro k hk
  simp only [overlapFailure, List.getElem?_eq_getElem hj, failsIf_none, List.any_eq_false] at h
  simpa using h panes[k] (List.mem_take_iff_getElem.2 ⟨k, by omega, rfl⟩)

/-- R38, R39: the panes of each record of a valid image. -/
theorem imagePanes_right {img : List Byte} (h : validate img = none) {pos : Nat} (hp : pos ∈ recordPositions img) :
    PanesRight (imagePanes img pos) := by
  obtain ⟨-, -, -, panes, overlaps⟩ := validate_none h
  obtain ⟨i, hi⟩ := exists_mem_indexedPositions hp
  simp only [paneSetFailure, overlapSetFailure, firstFailure_none, List.mem_flatMap, List.mem_map, List.mem_range,
    forall_exists_index, and_imp] at panes overlaps
  refine ⟨fun p hm => ?_, List.pairwise_iff_getElem.2 fun k j hk hj hkj => ?_⟩
  · obtain ⟨j, hj, rfl⟩ := List.mem_map.1 hm
    exact paneInside_of_check (panes _ _ hi j (List.mem_range.1 hj) rfl)
  · rw [panesOverlap_comm]
    exact apart_of_check hj (overlaps _ _ hi j (by simpa [imagePanes] using hj) rfl) k hkj

/-- R30: the walk of an image of valid length finds a record, the first at byte 96. -/
theorem walkImage_first {img : List Byte} {ps : List Nat} {e : Nat} (h : walkImage img = .ended ps e)
    (he : 96 < e) : ∃ rest, ps = 96 :: rest := by
  unfold walkImage at h
  cases hn : imageLayoutCount img with
  | zero =>
    simp only [hn, walkRecords, Walk.ended.injEq] at h
    omega
  | succ n =>
    rw [hn, walkRecords] at h
    dsimp only at h
    repeat' split at h
    all_goals cases h
    exact ⟨_, rfl⟩

/-- R30: a valid image has a record, and its first stands at byte 96. -/
theorem recordPositions_first {img : List Byte} (h : validate img = none) :
    ∃ rest, recordPositions img = 96 :: rest := by
  obtain ⟨head, walk, -⟩ := validate_none h
  simp only [formatHeadFailure, firstFailure_none, List.forall_mem_cons, failsIf_none, Bool.or_eq_false_iff,
    decide_eq_false_iff_not] at head
  unfold formatWalkFailure at walk
  unfold recordPositions
  split at walk
  · cases walk
  · rename_i ps e hw
    simp only [failsIf_none, decide_eq_false_iff_not] at walk
    rw [hw]
    exact walkImage_first hw (by omega)

/-- R35: the first record of a valid image carries layout number 0. -/
theorem firstRecord_number {img : List Byte} (h : validate img = none) :
    (tableOfImage img).records.head?.map (·.number) = some 0 := by
  obtain ⟨-, -, layouts, -⟩ := validate_none h
  obtain ⟨rest, hr⟩ := recordPositions_first h
  simp only [layoutSetFailure, firstFailure_none, List.forall_mem_cons, List.forall_mem_map] at layouts
  have first := layouts.2 (0, 96) (by simp [indexedPositions, hr])
  simp only [layoutFailure, firstFailure_none, List.forall_mem_cons, failsIf_none, beq_self_eq_true, Bool.true_and,
    bne_eq_false_iff_eq] at first
  simp [tableOfImage, hr, imageRecord, first.2.1]

/-- R28, R43: the table of a valid image has its panes right. -/
theorem tableOfImage_right {img : List Byte} (h : validate img = none) : TableRight (tableOfImage img) := by
  intro r hr
  obtain ⟨pos, hp, rfl⟩ := List.mem_map.1 hr
  exact imagePanes_right h hp

/-- R44: the built-in table has one pane, which is the panel. -/
theorem builtInTable_right : TableRight builtInTable := by
  intro r hr
  obtain rfl := List.mem_singleton.1 hr
  refine ⟨fun p hp => ?_, List.pairwise_singleton _ _⟩
  obtain rfl := List.mem_singleton.1 hp
  unfold PaneInside
  decide

/-- Settles O48: validation establishes the panes (`tableOfImage_right`) and the first number (`firstRecord_number`). -/
theorem validImagesPlacePanesRightly : Obligations.ValidImagesPlacePanesRightly :=
  ⟨fun _ h => ⟨tableOfImage_right h, firstRecord_number h⟩, builtInTable_right, rfl⟩

end Sys2Proof.Machine
end

section
/-!
What a command does to the controller, the table, the load and the engine, said once: a sequence of moves. The statements
about what every step keeps (O54, O56, O59) go through the moves, each of which carries the condition that the operation
tests before it makes it.
-/
namespace Sys2Proof.Machine

/-! ## Moves -/

/-- From `s` to `t` what the records, the table, the load hold, the slot, the map and the buffers say is as it was: the
controller but for its old writes, the engine but for its cursor and last issuer, the shadow table with its source, whether
a load runs and is abandoned, and the tiles of the contexts still held. -/
structure Still (s t : State) : Prop where
  ctrl : ∃ writes, t.ctrl = { s.ctrl with oldWrites := writes }
  engine : ∃ cursor issuer, t.engine = { s.engine with cursor := cursor, lastIssuer := issuer }
  shadow : t.cmd.shadow = s.cmd.shadow
  source : t.cmd.source = s.cmd.source
  load : t.cmd.load.map (·.abandoned) = s.cmd.load.map (·.abandoned)
  contexts : ∀ c ∈ t.contexts, ∃ d ∈ s.contexts, d.tiles = c.tiles

theorem Still.of_eq {s t : State} (hk : t.ctrl = s.ctrl) (he : t.engine = s.engine) (hm : t.cmd = s.cmd)
    (hc : t.contexts = s.contexts) : Still s t where
  ctrl := ⟨_, hk⟩
  engine := ⟨_, _, he⟩
  shadow := by rw [hm]
  source := by rw [hm]
  load := by rw [hm]
  contexts := fun c h => ⟨c, hc ▸ h, rfl⟩

/-- R132, R135, R136, R152: a buffer's content `x` after a request or an answer of the work that `old` stands for: a move
that reads on or has formed its rows, a tile that is written on, answers that are discarded. -/
inductive SameWork : TileBuffer → TileBuffer → Prop
  | reading {r x : Reading} : x.tile = r.tile → x.move = r.move → SameWork (.reading r) (.reading x)
  | formed {r : Reading} {w : Writing} : w.tile = r.tile → w.op = .move → SameWork (.reading r) (.writing w)
  | writing {w x : Writing} : x.tile = w.tile → x.op = w.op → SameWork (.writing w) (.writing x)
  | discarding (n m : Nat) : SameWork (.discarding n) (.discarding m)
  | discarded (n : Nat) : SameWork (.discarding n) .empty

/-- One move of the controller, the table's load or the engine, under the condition it is made on. The replacement of the
table at the end of a load or of CHECK is none of them. -/
inductive Move (s : State) : State → Prop
  | still {t} : Still s t → (t.boot.state = .finished ↔ s.boot.state = .finished) → Move s t
  | received (p : Port) (k : Nat) (r : Request) : Move s { s with contexts := s.contexts ++ [receive p k r s] }
  | slot (current : Option Nat) (n : Nat) : (inTransition s.ctrl.state = true ∧ current = targetNumber s) ∨
      (s.ctrl.loadHold = true ∧ current = activeNumber s) → Move s (slotRequest current n s)
  | commit (n : Nat) : s.ctrl.state = .steady → s.ctrl.loadHold = false → Move s (commitLayout n s)
  | complete : s.ctrl.state = .relocating → relocationComplete s.engine = true →
      Move s { s with ctrl := { s.ctrl with state := .flipWait } }
  | flip : s.ctrl.state = .flipWait → Move s (flip s)
  | drained : s.ctrl.state = .draining → Move s (onCtrl (fun c => { c with state := .relocating }) s)
  | take : Move s (takeTiles s)
  | hold (key : Key) : s.ctrl.state = .draining ∨ s.ctrl.state = .relocating →
      Move s (onEngine (fun e => { e with hold := e.hold ++ [key] }) s)
  | promote (c : Context) : c ∈ s.contexts → Move s (promoteTiles c.tiles s)
  | release : Move s (releaseHeld s)
  | buffer (b : BufferId) {x : TileBuffer} : SameWork (bufferOf b s.engine) x → Move s (onEngine (setBuffer b x) s)
  | refill (b : BufferId) {r : Reading} {w : Writing} (k : FillKind) : bufferOf b s.engine = .reading r →
      w.tile = r.tile → w.op = .fill →
      Move s (onEngine (fun e => setBuffer b (.writing w) { e with map := setEntry e.map r.tile (.filling k b) }) s)
  | finish (b : BufferId) {w : Writing} {x : TileState} : bufferOf b s.engine = .writing w → isFinished x = true →
      Move s (onEngine (fun e => setBuffer b .empty { e with map := setEntry e.map w.tile x }) s)
  | beginLoad (seq : Byte) : s.ctrl.state = .steady → Move s (beginLoad seq s)
  | dropLoad : (∀ l, s.cmd.load = some l → l.abandoned = true) → Move s (dropLoadAnswer s)
  | endLoad {l : TableLoad} : s.cmd.load = some l → l.abandoned = false →
      Move s (endLoadKept (onCmd (fun c => { c with load := none }) s))
  | abort : Move s (abortWaiting s)
  | restart (seq : Byte) : s.ctrl.state ≠ .loading → Move s (restartRunning seq s)

/-- A sequence of moves. -/
def Moves (s t : State) : Prop := Relation.ReflTransGen Move s t

theorem Moves.refl (s : State) : Moves s s := Relation.ReflTransGen.refl

theorem Moves.after {s t u : State} (g : Moves t u) (h : Moves s t) : Moves s u := Relation.ReflTransGen.trans h g

theorem Move.moves {s t : State} (h : Move s t) : Moves s t := Relation.ReflTransGen.single h

theorem Still.moves {s t : State} (h : Still s t) (hb : t.boot = s.boot) : Moves s t := (Move.still h (by rw [hb])).moves

/-- Nothing that the moves change has changed. -/
theorem Moves.of_eq {s t : State} (hk : t.ctrl = s.ctrl) (he : t.engine = s.engine) (hm : t.cmd = s.cmd)
    (hc : t.contexts = s.contexts) (hb : t.boot = s.boot) : Moves s t := (Still.of_eq hk he hm hc).moves hb

/-- Of the command block, what is not the table or the abandonment of a load may change. -/
theorem Moves.of_cmd {s t : State} (hk : t.ctrl = s.ctrl) (he : t.engine = s.engine)
    (hm : t.cmd.shadow = s.cmd.shadow ∧ t.cmd.source = s.cmd.source)
    (hl : t.cmd.load.map (·.abandoned) = s.cmd.load.map (·.abandoned)) (hc : t.contexts = s.contexts)
    (hb : t.boot = s.boot) : Moves s t :=
  Still.moves ⟨⟨_, hk⟩, ⟨_, _, he⟩, hm.1, hm.2, hl, fun c h => ⟨c, hc ▸ h, rfl⟩⟩ hb

/-- So may the contexts, where they touch no more tiles. -/
theorem Moves.of_contexts {s t : State} (hk : t.ctrl = s.ctrl) (he : t.engine = s.engine) (hm : t.cmd = s.cmd)
    (hc : ∀ c ∈ t.contexts, ∃ d ∈ s.contexts, d.tiles = c.tiles) (hb : t.boot = s.boot) : Moves s t :=
  Still.moves ⟨⟨_, hk⟩, ⟨_, _, he⟩, by rw [hm], by rw [hm], by rw [hm], hc⟩ hb

/-- So may the old writes, the plan cursor and the last issuer. -/
theorem Moves.of_cursor {s t : State} (hk : ∃ writes, t.ctrl = { s.ctrl with oldWrites := writes })
    (he : ∃ cursor issuer, t.engine = { s.engine with cursor := cursor, lastIssuer := issuer }) (hm : t.cmd = s.cmd)
    (hc : t.contexts = s.contexts) (hb : t.boot = s.boot) : Moves s t :=
  Still.moves ⟨hk, he, by rw [hm], by rw [hm], by rw [hm], fun c h => ⟨c, hc ▸ h, rfl⟩⟩ hb

/-! ## The table is not moved -/

/-- R40: no move replaces the shadow table. -/
theorem Move.table {s t : State} (m : Move s t) : t.cmd.shadow = s.cmd.shadow ∧ t.cmd.source = s.cmd.source := by
  cases m with
  | still h => exact ⟨h.shadow, h.source⟩
  | restart => simp [restartRunning, abandonLoad]
  | _ => simp [Machine.beginLoad, dropLoadAnswer]

theorem Moves.table {s t : State} (m : Moves s t) : t.cmd.shadow = s.cmd.shadow ∧ t.cmd.source = s.cmd.source := by
  induction m with
  | refl => exact ⟨rfl, rfl⟩
  | tail _ m ih => exact ⟨m.table.1.trans ih.1, m.table.2.trans ih.2⟩

/-- R171: nor do they end the boot loader's work. -/
theorem Move.boot {s t : State} (m : Move s t) : t.boot.state = .finished ↔ s.boot.state = .finished := by
  cases m with
  | still _ h => exact h
  | _ => simp

theorem Moves.boot {s t : State} (m : Moves s t) : t.boot.state = .finished ↔ s.boot.state = .finished := by
  induction m with
  | refl => exact .rfl
  | tail _ m ih => exact m.boot.trans ih

/-! ## The shared operations -/

theorem onNotice_moves (f : NoticeUnit → NoticeUnit) (s : State) : Moves s (onNotice f s) := .of_eq rfl rfl rfl rfl rfl

theorem onMonitor_moves (f : Monitor → Monitor) (s : State) : Moves s (onMonitor f s) := .of_eq rfl rfl rfl rfl rfl

theorem raise_moves (k : NoticeKind) (s : State) : Moves s (raise k s) := onNotice_moves _ s

theorem countMemoryError_moves (s : State) : Moves s (countMemoryError s) := .of_eq rfl rfl rfl rfl rfl

theorem respond_moves (q : Byte) (r : CommandResult) (d : BitVec 16) (s : State) : Moves s (respond q r d s) :=
  onNotice_moves _ s

theorem popInFlight_moves (s : State) : Moves s (popInFlight s) := .of_eq rfl rfl rfl rfl rfl

theorem clockAt_moves (time : Nat) (s : State) : Moves s (clockAt time s) := .of_eq rfl rfl rfl rfl rfl

theorem setPort_moves (p : Port) (q : PortState) (s : State) : Moves s (setPort p q s) := by
  cases p <;> exact .of_eq rfl rfl rfl rfl rfl

theorem makeReady_moves (p : Port) (rr : ReadyResponse) (s : State) : Moves s (makeReady p rr s) := setPort_moves _ _ s

theorem setPlace_moves (p : Port) (l : Place) (s : State) : Moves s (setPlace p l s) := setPort_moves _ _ s

theorem markTag_moves (p : Port) (tag : Tag) (s : State) : Moves s (markTag p tag s) := setPort_moves _ _ s

theorem joinPath_moves (p : Port) (e : PathEntry) (s : State) : Moves s (joinPath p e s) := setPort_moves _ _ s

/-- A change of the running load that does not abandon it. -/
theorem onCmd_load_moves {l m : TableLoad} {s : State} (h : s.cmd.load = some l) (ha : m.abandoned = l.abandoned) :
    Moves s (onCmd (fun c => { c with load := some m }) s) :=
  .of_cmd rfl rfl ⟨rfl, rfl⟩ (by simp [h, ha]) rfl rfl

/-- R45: a context takes the place of one with its tiles. -/
theorem putContext_moves {c d : Context} {s : State} (hd : d ∈ s.contexts) (ht : c.tiles = d.tiles) :
    Moves s (putContext c s) := by
  refine .of_contexts rfl rfl rfl (fun e he => ?_) rfl
  obtain ⟨f, hf, rfl⟩ := List.mem_map.1 he
  split
  · exact ⟨d, hd, ht.symm⟩
  · exact ⟨f, hf, rfl⟩

/-- R45: a context is discarded. -/
theorem dropContext_moves (key : Key) (s : State) : Moves s (dropContext key s) :=
  .of_contexts rfl rfl rfl (fun c hc => ⟨c, List.mem_of_mem_filter hc, rfl⟩) rfl

/-! ## Controller and engine -/

/-- R103, R104, R109: a layout request commits in STEADY, and otherwise acts on the slot. -/
theorem layoutRequest_moves (n : Nat) (s : State) : Moves s (layoutRequest n s) := by
  unfold layoutRequest
  split
  · exact .refl s
  · rename_i hs
    split
    · rename_i hl
      exact (Move.slot _ n (.inr ⟨hl, rfl⟩)).moves
    · rename_i hl
      split
      · exact .refl s
      · exact (Move.commit n hs (by simpa using hl)).moves
  all_goals
    rename_i hs
    exact (Move.slot _ n (.inl ⟨by rw [hs]; rfl, rfl⟩)).moves

/-- R112, R113: the completion test. -/
theorem completionTest_moves (s : State) : Moves s (completionTest s) := by
  rw [completionTest_spec]
  split
  · rename_i h
    have waits := (Move.complete h.1 h.2).moves
    split
    · exact (Move.flip rfl).moves.after waits
    · exact waits
  · exact .refl s

/-- R107, R108: a write leaves the old-write set, and the last one ends the drain. -/
theorem leaveOldWrites_moves (key : Key) (s : State) : Moves s (leaveOldWrites key s) := by
  have left : ∀ f : List Key → List Key, Moves s (onCtrl (fun c => { c with oldWrites := f c.oldWrites }) s) := fun f =>
    .of_cursor ⟨_, rfl⟩ ⟨_, _, rfl⟩ rfl rfl rfl
  unfold leaveOldWrites
  dsimp only
  split
  · split
    · rename_i h
      have reset : ∀ u, Moves u (onEngine (fun e => { e with cursor := 0 }) u) := fun u =>
        .of_cursor ⟨_, rfl⟩ ⟨_, _, rfl⟩ rfl rfl rfl
      exact (completionTest_moves _).after <| Move.take.moves.after <| (reset _).after <|
        (Move.drained h.1).moves.after <| left _
    · exact left _
  · exact .refl s

theorem settleExpires_moves (n : Nat) (s : State) : Moves s (settleExpires n s) := by
  have expired := onMonitor_moves (fun m => { m with settle := .expired n }) s
  unfold settleExpires
  dsimp only
  split
  · exact (layoutRequest_moves n _).after expired
  · exact expired

theorem fallbackExpires_moves (s : State) : Moves s (fallbackExpires s) := by
  have spent := onMonitor_moves (fun m => { m with fallback := .spent }) s
  unfold fallbackExpires
  dsimp only
  repeat' split
  · exact spent
  · exact (raise_moves _ _).after <| (layoutRequest_moves 0 _).after spent
  · exact spent

theorem takeAwaitedFlip_moves (s : State) : Moves s (takeAwaitedFlip s) := by
  unfold takeAwaitedFlip
  split
  · exact (Move.flip ‹_›).moves
  · exact .refl s

theorem frameStarts_moves (s : State) : Moves s (frameStarts s) :=
  Moves.after (.of_eq (by simp [frameStarts]) (by simp [frameStarts]) (by simp) (by simp) (by simp))
    (takeAwaitedFlip_moves s)

theorem lossTimerExpires_moves (s : State) : Moves s (lossTimerExpires s) := by
  unfold lossTimerExpires
  dsimp only
  split
  · exact .of_eq rfl rfl rfl rfl rfl
  · exact (takeAwaitedFlip_moves _).after <| .of_eq rfl rfl rfl rfl rfl

/-! ## Commands (R153 to R161) -/

theorem takeRestart_moves (q : Byte) (s : State) : Moves s (takeRestart q s) := by
  unfold takeRestart
  split
  · refine Moves.after ?_ Move.abort.moves
    exact .of_eq rfl rfl rfl rfl rfl
  · exact (Move.restart q ‹_›).moves

theorem runCommand_moves (q c : Byte) (a : BitVec 16) (s : State) : Moves s (runCommand q c a s) := by
  unfold runCommand takePublish takeForce takeRelease takeReport
  repeat' split
  · exact respond_moves _ _ _ s
  · rename_i h
    exact (Move.beginLoad q (by simp only [not_or, not_not] at h; exact h.2)).moves
  · exact respond_moves _ _ _ s
  · exact (respond_moves _ _ _ _).after <| (layoutRequest_moves _ _).after <| onMonitor_moves _ s
  · exact respond_moves _ _ _ s
  · exact respond_moves _ _ _ s
  · exact .of_eq (by simp) (by simp) (by simp) (by simp) (by simp)
  · exact respond_moves _ _ _ s
  · exact onNotice_moves _ s
  · exact takeRestart_moves q s
  · exact respond_moves _ _ _ s

/-- R10, R153, R156, R165: what the acceptance of a system window write reports. -/
theorem reportWatched_moves (p : Port) (r : Request) (s : State) : Moves s (reportWatched p r s) := by
  have notice : Moves s (match wordWrittenAt r noticeRecordAddress with
      | some w => reportNoticeWrite p r w s
      | none => s) := by
    split
    · exact .of_eq (by simp) (by simp) (by simp) (by simp) (by simp)
    · exact .refl s
  have table : ∀ x, Moves x (if writesTableArea r then reportTableWrite x else x) := fun x => by
    split
    · refine .of_cmd rfl rfl ⟨rfl, rfl⟩ ?_ rfl rfl
      cases h : x.cmd.load <;> simp [reportTableWrite, onLoad, h]
    · exact .refl x
  have command : ∀ x w, Moves x (reportCommandWord w x) := fun x w => by
    unfold reportCommandWord
    split
    · exact .refl x
    · refine (runCommand_moves _ _ _ _).after ?_
      exact .of_cmd rfl rfl ⟨rfl, rfl⟩ rfl rfl rfl
  unfold reportWatched
  dsimp only
  split
  · exact (command _ _).after <| (table _).after notice
  · exact (table _).after notice

/-! ## Admission (R6, R8, R17) -/

/-- R141: a request that must be held meets a transition's work. -/
theorem mustHold_state {c : Context} {s : State} (h : mustHold c s = true) :
    s.ctrl.state = .draining ∨ s.ctrl.state = .relocating := ((mustHold_iff c s).1 h).1

/-- R142, R145: a request whose context is held enters the hold queue. -/
theorem enterHold_moves {key : Key} {c : Context} {s : State} (hc : c ∈ s.contexts)
    (hs : s.ctrl.state = .draining ∨ s.ctrl.state = .relocating) : Moves s (enterHold key c.tiles s) := by
  unfold enterHold
  exact Move.take.moves.after <| (Move.promote c (by simpa using hc)).moves.after <| (onNotice_moves _ _).after <|
    (Move.hold key hs).moves

theorem routeSurface_moves {p : Port} {r : Request} {c : Context} {s : State} (hc : c ∈ s.contexts) :
    Moves s (routeSurface p r c s) := by
  have emptied := setPlace_moves p .empty s
  unfold routeSurface
  split
  · exact setPlace_moves p _ s
  · split
    · rename_i hm
      split
      · exact (enterHold_moves (by simpa using hc) (by simpa using mustHold_state hm)).after emptied
      · exact setPlace_moves p _ s
    · exact (joinPath_moves p _ _).after emptied

theorem routeRaw_moves (p : Port) (r : Request) (s : State) : Moves s (routeRaw p r s) := by
  unfold routeRaw
  split
  · exact setPlace_moves p _ s
  · exact (joinPath_moves p _ _).after <| setPlace_moves p _ s

/-- R46: a surface request is received, and answered or routed. -/
theorem acceptSurface_moves (p : Port) (k : Nat) (r : Request) (s : State) : Moves s (acceptSurface p k r s) := by
  have received : Moves s { markTag p r.tag s with contexts := (markTag p r.tag s).contexts ++ [receive p k r s] } := by
    refine Moves.after ?_ (Move.received p k r).moves
    cases p <;> exact .of_eq rfl rfl rfl rfl rfl
  have counted : ∀ n, Moves s (countEvent .clipped n
      { markTag p r.tag s with contexts := (markTag p r.tag s).contexts ++ [receive p k r s] }) := fun n =>
    (onNotice_moves _ _).after received
  unfold acceptSurface
  dsimp only
  split
  · exact (makeReady_moves p _ _).after <| (setPlace_moves p _ _).after (counted _)
  · exact (routeSurface_moves (by simp)).after (counted _)

theorem admitRequest_moves (p : Port) (r : Request) (s : State) : Moves s (admitRequest p r s) := by
  unfold admitRequest acceptRequest
  split
  · exact (makeReady_moves p _ _).after <| (setPlace_moves p _ _).after <| (markTag_moves p _ _).after <|
      onNotice_moves _ s
  · split
    · exact setPlace_moves p _ s
    · split
      · exact (routeRaw_moves p r _).after <| markTag_moves p _ s
      · exact (reportWatched_moves p r _).after <| (joinPath_moves p _ _).after <| (setPlace_moves p _ _).after <|
          markTag_moves p _ s
      · exact acceptSurface_moves p _ r s

theorem presentRequest_moves (p : Port) (r : Request) (s : State) : Moves s (presentRequest p r s) := by
  unfold presentRequest
  split
  · exact setPlace_moves p _ s
  · exact admitRequest_moves p r s

theorem routeAgain_moves (p : Port) (r : Request) (s : State) : Moves s (routeAgain p r s) := by
  unfold routeAgain
  split
  · exact routeSurface_moves (contextOf_some ‹_›).1
  · exact routeRaw_moves p r s

theorem endWait_moves {p : Port} {s u : State} (h : endWait p s = some u) : Moves s u := by
  unfold endWait at h
  repeat' split at h
  all_goals cases h
  · exact (makeReady_moves p _ _).after <| (markTag_moves p _ _).after <| setPlace_moves p _ s
  · exact admitRequest_moves p _ s
  · exact admitRequest_moves p _ s
  · exact routeAgain_moves p _ s
  · exact routeAgain_moves p _ s

theorem admitWaiting_moves (p : Port) (s : State) : Moves s (admitWaiting p s) := by
  unfold admitWaiting
  split
  · exact admitRequest_moves p _ s
  · exact .refl s

/-- R2, R107: a response is sent. -/
theorem sendResponse_moves (p : Port) (rr : ReadyResponse) (s : State) : Moves s (sendResponse p rr s) := by
  have reported : ∀ u, Moves u (reportSent p rr u) := fun u => .of_eq (by simp) (by simp) (by simp) (by simp) (by simp)
  have marked : ∀ tag u, Moves u (abortAfterTag p tag u) := fun tag u =>
    .of_eq (by simp) (by simp) (by simp) (by simp) (by simp)
  exact (marked _ _).after <| (leaveOldWrites_moves _ _).after <| (reported _).after <| (dropContext_moves _ _).after <|
    setPort_moves p _ s

/-! ## DN (R11, R63, R133 to R139, R152) -/

/-- R11, R133, R155, R166: a requester issues. -/
theorem requesterIssue_moves {pick : RecordWriter} {q : Requester} {i : Issue} {s : State}
    (h : requesterIssue pick q s = some i) : Moves s i.after := by
  cases q with
  | relocation =>
    have issued : ∀ (b : BufferId) x, SameWork (bufferOf b s.engine) x →
        Moves s (onEngine (fun e => setBuffer b x { e with lastIssuer := b }) s) := fun b x hx => by
      refine Moves.after (t := onEngine (setBuffer b x) s) ?_ (Move.buffer b hx).moves
      refine .of_cursor ⟨_, rfl⟩ ?_ rfl rfl rfl
      cases b <;> exact ⟨_, _, rfl⟩
    simp only [requesterIssue, relocationIssue] at h
    repeat' split at h
    all_goals cases h
    · rename_i hb
      exact issued _ _ (by rw [hb]; exact .reading rfl rfl)
    · rename_i hb
      exact issued _ _ (by rw [hb]; exact .writing rfl rfl)
  | loader =>
    simp only [requesterIssue, loaderIssue] at h
    repeat' split at h
    all_goals cases h
    rename_i hl _ _ _ _ _
    exact onCmd_load_moves hl rfl
  | path p =>
    simp only [requesterIssue, pathIssue] at h
    repeat' split at h
    all_goals cases h
    all_goals dsimp only
    · exact setPort_moves p _ s
    · rename_i c hc _ _ _ _ _ _ _
      exact (setPort_moves p _ _).after <| putContext_moves (contextOf_some hc).1 rfl
    · rename_i c hc _ _ _ _ _ _ _
      exact putContext_moves (contextOf_some hc).1 rfl
  | notice =>
    simp only [requesterIssue, Option.bind_eq_some_iff] at h
    obtain ⟨w, -, h⟩ := h
    unfold recordIssue at h
    dsimp only at h
    repeat' split at h
    all_goals cases h
    all_goals exact .of_eq rfl rfl rfl rfl rfl

theorem fragmentAnswered_moves (key : Key) (i : Nat) (a : Answer) (s : State) :
    Moves s (fragmentAnswered key i a s) := by
  unfold fragmentAnswered
  split
  · exact .refl s
  · rename_i c hc
    have put := putContext_moves (c := setFragment c i (answerFragment a)) (contextOf_some hc).1 rfl
    dsimp only
    split
    · exact (makeReady_moves _ _ _).after put
    · exact put

/-- R135, R136, R138: the answer to a row read of the move in a buffer. -/
theorem rowReadAnswered_moves {b : BufferId} {r : Reading} {s : State} (a : Answer)
    (hb : bufferOf b s.engine = .reading r) : Moves s (rowReadAnswered b r a s) := by
  have counted : ∀ u, u = (if r.abandon then s else countMemoryError s) → Moves s u ∧ u.engine = s.engine := by
    rintro u rfl
    split
    · exact ⟨.refl s, rfl⟩
    · exact ⟨countMemoryError_moves s, rfl⟩
  have on : ∀ (u : State) (x : Reading), u.engine = s.engine → x.tile = r.tile → x.move = r.move →
      Moves u (onEngine (setBuffer b (.reading x)) u) ∧ Moves u (abandonMove b x u) ∧ Moves u (beginWriting b x u) := by
    intro u x hu ht hm
    rw [← hu] at hb
    refine ⟨(Move.buffer b (by rw [hb]; exact .reading ht hm)).moves, ?_,
      (Move.buffer b (by rw [hb]; exact .formed ht rfl)).moves⟩
    unfold abandonMove fillBuffer
    dsimp only
    rw [ht]
    exact (Move.refill b _ hb rfl rfl).moves
  unfold rowReadAnswered
  dsimp only
  split
  · rename_i data
    obtain ⟨reads, abandons, writes⟩ :=
      on s { r with answered := r.answered + 1, rows := r.rows ++ [data] } rfl rfl rfl
    repeat' split
    · exact abandons
    · exact reads
    · exact writes
    · exact reads
  · obtain ⟨failed, engine⟩ := counted _ rfl
    obtain ⟨reads, abandons, -⟩ := on _ { r with answered := r.answered + 1, abandon := true } engine rfl rfl
    split
    · exact abandons.after failed
    · exact reads.after failed

/-- R137, R139: the answer to a row write of the tile in a buffer. -/
theorem rowWriteAnswered_moves {b : BufferId} {w : Writing} {s : State} (a : Answer)
    (hb : bufferOf b s.engine = .writing w) : Moves s (rowWriteAnswered b w a s) := by
  have counted : ∀ u, u = (if answerOk a || w.failure then s else countMemoryError s) →
      Moves s u ∧ u.engine = s.engine := by
    rintro u rfl
    split
    · exact ⟨.refl s, rfl⟩
    · exact ⟨countMemoryError_moves s, rfl⟩
  unfold rowWriteAnswered
  dsimp only
  obtain ⟨failed, engine⟩ := counted _ rfl
  generalize (if answerOk a || w.failure then s else countMemoryError s) = u at failed engine ⊢
  rw [← engine] at hb
  refine Moves.after ?_ failed
  split
  · have ends : ∀ v x, bufferOf b v.engine = .writing w → isFinished x = true →
        Moves v (onEngine (fun e => setBuffer b .empty { e with map := setEntry e.map w.tile x }) v) :=
      fun v x hv hx => (Move.finish b hv hx).moves
    unfold endTile
    refine (completionTest_moves _).after <| Move.take.moves.after <| Move.release.moves.after <|
      (ends (countEvent _ 1 u) _ hb ?_).after <| onNotice_moves _ u
    split <;> rfl
  · exact (Move.buffer b (by rw [hb]; exact .writing rfl rfl)).moves

/-- R18, R152, R160: an answer that is dropped unexamined. -/
theorem dropAnswer_moves {f : InFlight} {s : State} (hd : answerDiscarded s f = true) : Moves s (dropAnswer f s) := by
  unfold dropAnswer discardAnswered
  split
  · exact .refl s
  · rename_i hs
    split
    · rename_i b _
      split
      · rename_i n hb
        split
        · exact (completionTest_moves _).after <| Move.take.moves.after
            (Move.buffer b (by rw [hb]; exact .discarded n)).moves
        · exact (Move.buffer b (by rw [hb]; exact .discarding n _)).moves
      · exact .refl s
    · rename_i ho
      refine (Move.dropLoad fun l hl => ?_).moves
      simpa [answerDiscarded, hs, ho, hl] using hd
    · exact .refl s

/-! ## Every command -/

/-- R15, R171: the commands whose moves need more of what they test than their event says. -/
def needsMore : Instr → Bool
  | .discardedAnswer _ | .loaderReadAnswer _ | .bootHeadReadEnd _ | .bootBodyReadEnd _ | .bootCheckEnd _ => true
  | _ => false

theorem Event.moves {c : Instr} {s u : State} (e : Event s c u) (hc : needsMore c = false) : Moves s u := by
  have popped := popInFlight_moves s
  cases e with
  | presented => exact presentRequest_moves _ _ s
  | waitEnds h => exact endWait_moves h
  | sent => exact sendResponse_moves _ _ s
  | granted _ h =>
    refine Moves.after ?_ (requesterIssue_moves h)
    exact .of_eq rfl rfl rfl rfl rfl
  | fragmentAnswer => exact (fragmentAnswered_moves _ _ _ _).after popped
  | forwardedAnswer => exact (makeReady_moves _ _ _).after popped
  | rowReadAnswer h => exact (rowReadAnswered_moves (s := popInFlight s) _ h).after popped
  | rowWriteAnswer h => exact (rowWriteAnswered_moves (s := popInFlight s) _ h).after popped
  | recordWriteAnswer | responseWriteAnswer | countsWriteAnswer =>
    exact Moves.after (.of_eq (by simp) (by simp) (by simp) (by simp) (by simp)) popped
  | settleTimer => exact (settleExpires_moves _ _).after (clockAt_moves _ s)
  | fallbackTimer => exact (fallbackExpires_moves _).after (clockAt_moves _ s)
  | frameStart => exact (frameStarts_moves _).after (clockAt_moves _ s)
  | lossTimer => exact (lossTimerExpires_moves _).after (clockAt_moves _ s)
  | sensorReply =>
    refine .of_eq ?_ ?_ ?_ ?_ ?_ <;> simp only [judgePoll] <;> split <;> simp
  | pollRound | replyTimeout => exact .of_eq (by simp) (by simp) (by simp) (by simp) (by simp)
  | discardedAnswer | loaderReadAnswer | bootHead | bootBody | bootCheck => cases hc

theorem settleOutputs_moves (b s : State) : Moves s (settleOutputs b s) := .of_eq rfl rfl rfl rfl rfl

/-- R173: a read of the boot loader ends outside FINISHED and leaves it there. -/
theorem bootRead_moves {s t : State} (hk : t.ctrl = s.ctrl) (he : t.engine = s.engine) (hm : t.cmd = s.cmd)
    (hc : t.contexts = s.contexts) (hs : s.boot.state ≠ .finished) (ht : t.boot.state ≠ .finished) : Moves s t :=
  (Move.still (.of_eq hk he hm hc) (by simp [hs, ht])).moves

/-- Every command but those that may replace the table is a sequence of moves. -/
theorem exec_moves {c : Instr} {s t : State} (h : exec c s = .next t) (hl : ∀ a, c ≠ .loaderReadAnswer a)
    (hp : ∀ p, c ≠ .bootCheckEnd p) (hr : c ≠ .resetNRelease) : Moves s t := by
  cases hc : needsMore c with
  | false =>
    rcases exec_event h with rfl | rfl | ⟨u, e, rfl⟩
    · rw [resetNAssert_next h]
      refine (Move.still ?_ ?_).moves
      · exact .of_eq rfl rfl rfl rfl
      · cases s.boot.spi <;> exact .rfl
    · exact absurd rfl hr
    · exact (settleOutputs_moves s u).after (e.moves hc)
  | true =>
    cases c with
    | loaderReadAnswer a => exact absurd rfl (hl a)
    | bootCheckEnd p => exact absurd rfl (hp p)
    | discardedAnswer a =>
      replace h := next_of_whileReleased h
      split at h
      · cases h
      · split at h
        · rename_i hd
          rw [happens_eq_next] at h
          subst h
          have dropped := dropAnswer_moves (s := popInFlight s) hd
          exact (settleOutputs_moves s _).after <| dropped.after (popInFlight_moves s)
        · cases h
    | bootHeadReadEnd bytes =>
      replace h := next_of_whileReleased h
      split at h
      · rename_i hb
        rw [happens_eq_next] at h
        subst h
        refine (settleOutputs_moves s _).after <| bootRead_moves (by simp) (by simp) (by simp) (by simp)
          (by rw [hb.1]; nofun) ?_
        by_cases hf : formatHeadFailure bytes = none
        · rw [headReadEnds_passes hf]; nofun
        · rw [headReadEnds_fails hf]; nofun
      · cases h
    | bootBodyReadEnd bytes =>
      replace h := next_of_whileReleased h
      split at h
      · cases h
      · split at h
        · rename_i hb
          rw [happens_eq_next] at h
          subst h
          exact (settleOutputs_moves s _).after <| bootRead_moves (by simp) (by simp) (by simp) (by simp)
            (by rw [hb.1]; nofun) nofun
        · cases h
    | _ => cases hc

/-- Settles O59: every other command is a sequence of moves (`exec_moves`), and no move replaces the table. -/
theorem onlyALoadChangesTheTable : Obligations.OnlyALoadChangesTheTable :=
  fun _ _ _ h hl hp hr => (exec_moves h hl hp hr).table

end Sys2Proof.Machine
end

section
/-!
The three commands that may replace the table, as moves and the replacement (R40, R117, R157, R174).
-/
namespace Sys2Proof.Machine

/-- R157: a load that ends is rejected, by a move, or its image is valid and becomes the table. -/
theorem endLoad_cases {l m : TableLoad} {s : State} (hm : s.cmd.load = some m) (ha : m.abandoned = false) :
    Moves s (endLoad l s) ∨ ∃ q img, validate img = none ∧
      endLoad l s = endLoadTaken q (tableOfImage img) (onCmd (fun c => { c with load := none }) s) := by
  have rejected : ∀ q r d, Moves s (endLoadRejected q r d (onCmd (fun c => { c with load := none }) s)) :=
    fun q r d => (respond_moves _ _ _ _).after <| (raise_moves _ _).after <| (Move.endLoad hm ha).moves
  unfold endLoad
  dsimp only
  generalize (if l.awaitingHead = true then l.bytes else l.bytes.take l.length) = img
  split
  · exact .inl (rejected _ _ _)
  · split
    · exact .inl (rejected _ _ _)
    · split
      · exact .inl (rejected _ _ _)
      · exact .inr ⟨_, img, ‹_›, rfl⟩

/-- R155, R156: the answer to a read of the load that runs is a move, or the end of the load with a valid image. -/
theorem loadAnswer_cases {l : TableLoad} {s : State} (a : Answer) (hl : s.cmd.load = some l)
    (ha : l.abandoned = false) : Moves s (loadAnswer l a s) ∨
      ∃ x m q img, Moves s x ∧ x.cmd.load = some m ∧ m.abandoned = false ∧ validate img = none ∧
        loadAnswer l a s = endLoadTaken q (tableOfImage img) (onCmd (fun c => { c with load := none }) x) := by
  have ends : ∀ x m, Moves s x → x.cmd.load = some l → Moves s (endLoad m x) ∨
      ∃ x' m' q img, Moves s x' ∧ x'.cmd.load = some m' ∧ m'.abandoned = false ∧ validate img = none ∧
        endLoad m x = endLoadTaken q (tableOfImage img) (onCmd (fun c => { c with load := none }) x') := by
    intro x m hx hm
    rcases endLoad_cases (l := m) hm ha with h | ⟨q, img, hv, he⟩
    · exact .inl (h.after hx)
    · exact .inr ⟨x, l, q, img, hx, hm, ha, hv, he⟩
  have failed : ∀ m, Moves s (loadReadFails m s) := fun m => by
    unfold loadReadFails
    split
    · exact .refl s
    · exact countMemoryError_moves s
  unfold loadAnswer
  dsimp only
  split
  · split
    · exact ends _ _ (failed _) (by simpa using hl)
    · refine .inl (Moves.after ?_ (failed { l with inFlight := l.inFlight - 1 }))
      exact onCmd_load_moves (l := l) (by simpa using hl) rfl
  · split
    · split
      · exact ends s _ (.refl s) hl
      · exact .inl (onCmd_load_moves hl rfl)
    · split
      · exact ends s _ (.refl s) hl
      · exact .inl (onCmd_load_moves hl rfl)

/-- LOADER_READ_ANSWER (R155, R156), where it takes place. -/
theorem exec_loaderReadAnswer {a : Answer} {s t : State} (h : exec (.loaderReadAnswer a) s = .next t) : Moves s t ∨
    ∃ x m q img, Moves s x ∧ x.cmd.load = some m ∧ m.abandoned = false ∧ validate img = none ∧
      Moves (endLoadTaken q (tableOfImage img) (onCmd (fun c => { c with load := none }) x)) t := by
  obtain ⟨f, _, u, -, hd, -, hk, rfl⟩ := (withAnswer_next s).1 (next_of_whileReleased h)
  split at hk
  · rename_i l ho hl
    cases hk
    simp only [answerDiscarded, ho, hl, Bool.or_eq_false_iff] at hd
    have popped := popInFlight_moves s
    rcases loadAnswer_cases (s := popInFlight s) a hl hd.2 with m | ⟨x, m, q, img, hx, hm, hma, hv, he⟩
    · exact .inl ((settleOutputs_moves s _).after <| m.after popped)
    · exact .inr ⟨x, m, q, img, hx.after popped, hm, hma, hv, he ▸ settleOutputs_moves s _⟩
  · cases hk

/-- BOOT_CHECK_END (R174), where it takes place: the table is taken, the boot transition committed, and the requests that
wait go on; then the loader is FINISHED. -/
theorem exec_bootCheckEnd {p : Port} {s t : State} (h : exec (.bootCheckEnd p) s = .next t) :
    s.boot.state = .check ∧ ∃ u, Moves (bootCommit (takeBootTable s)) u ∧ Still u t ∧ t.boot.state = .finished := by
  replace h := next_of_whileReleased h
  split at h
  · rename_i hb
    rw [happens_eq_next] at h
    subst h
    refine ⟨hb, _, (admitWaiting_moves (otherPort p) _).after (admitWaiting_moves p _), ?_, rfl⟩
    exact .of_eq (by simp [checkEnds]) (by simp [checkEnds]) (by simp [checkEnds]) (by simp [checkEnds])
  · cases h

end Sys2Proof.Machine
end

section
/-!
O56: the panes of the table and of the record copies through every step (R43).
-/
namespace Sys2Proof.Machine

/-- The panes are those of the table and of the three record copies alone. -/
theorem PlacesRight.congr {s t : State} (h : PlacesRight s) (hs : t.cmd.shadow = s.cmd.shadow)
    (ha : t.ctrl.active = s.ctrl.active) (ht : t.ctrl.target = s.ctrl.target) (ho : t.ctrl.old = s.ctrl.old) :
    PlacesRight t := by
  unfold PlacesRight
  rw [hs, ha, ht, ho]
  exact h

theorem PlacesRight.still {s t : State} (h : PlacesRight s) (k : Still s t) : PlacesRight t := by
  obtain ⟨w, hk⟩ := k.ctrl
  exact h.congr k.shadow (by rw [hk]) (by rw [hk]) (by rw [hk])

/-- R42: a record that the table holds, copied, has its panes right. -/
theorem TableRight.copy {t : Table} {n : Nat} {r : LayoutRecord} (h : TableRight t) (hr : tableRecord t n = some r) :
    PanesRight (copyRecord t r).panes := h r (List.mem_of_find?_eq_some hr)

/-- Log 27: the record copy without panes. -/
theorem blankRecord_right : PanesRight blankRecord.panes := ⟨nofun, .nil⟩

/-- R106, R126: a commit of records with right panes. -/
theorem beginTransition_places {d : DrainKind} {r : RecordCopy} {o : Option RecordCopy} {s : State}
    (h : PlacesRight s) (hr : PanesRight r.panes) (ho : ∀ c, o = some c → PanesRight c.panes) :
    PlacesRight (beginTransition d r o s) := by
  obtain ⟨⟨-, ctrl, -⟩, -⟩ := beginTransition_spec d r o s
  obtain ⟨table, active, -⟩ := h
  refine ⟨by simpa using table, ?_, ?_, ?_⟩ <;> rw [ctrl]
  · exact active
  · exact fun c hc => Option.some.inj hc ▸ hr
  · exact ho

theorem commitRecord_places {t : Table} {n : Nat} {r : LayoutRecord} {s : State} (h : PlacesRight s)
    (hs : s.cmd.shadow = some t) (hr : tableRecord t n = some r) : PlacesRight (commitRecord t r s) :=
  beginTransition_places h ((h.1 t hs).copy hr) h.2.1

theorem commitLayout_places {n : Nat} {s : State} (h : PlacesRight s) : PlacesRight (commitLayout n s) := by
  unfold commitLayout
  split
  · exact h
  · split
    · exact h
    · exact commitRecord_places h ‹_› ‹_›

theorem resolveSlot_places {s : State} (h : PlacesRight s) : PlacesRight (resolveSlot s) := by
  unfold resolveSlot
  split
  · exact h
  · exact commitLayout_places (h.congr rfl rfl rfl rfl)

/-- R114: the flip makes the target's panes the active ones. -/
theorem flip_places {s : State} (h : PlacesRight s) : PlacesRight (flip s) := by
  rw [flip_eq]
  exact resolveSlot_places ⟨h.1, h.2.2.1, nofun, nofun⟩

/-- R117, R118: the record 0 that the boot transition builds. -/
theorem bootTarget_places {s : State} (h : ∀ t, s.cmd.shadow = some t → TableRight t) :
    PanesRight (bootTarget s).panes := by
  unfold bootTarget
  split
  · exact blankRecord_right
  · split
    · exact blankRecord_right
    · exact (h _ ‹_›).copy ‹_›

theorem restartRunning_places {q : Byte} {s : State} (h : PlacesRight s) : PlacesRight (restartRunning q s) := by
  have table : ∀ u : State, u.cmd.shadow = s.cmd.shadow → PlacesRight (restartCommit u) := fun u hu => by
    have right : ∀ t, u.cmd.shadow = some t → TableRight t := hu ▸ h.1
    exact beginTransition_places ⟨right, nofun, nofun, nofun⟩ (bootTarget_places right) nofun
  refine PlacesRight.congr (table _ ?_) rfl rfl rfl rfl
  simp [abandonLoad]

/-- R43: every move. -/
theorem Move.places {s t : State} (m : Move s t) (h : PlacesRight s) : PlacesRight t := by
  cases m with
  | still k => exact h.still k
  | commit => exact commitLayout_places h
  | flip => exact flip_places h
  | endLoad => exact resolveSlot_places (h.congr rfl rfl rfl rfl)
  | restart => exact restartRunning_places h
  | slot => rw [slotRequest_eq]; exact h.congr rfl rfl rfl rfl
  | take | promote | release | abort => exact h.congr (by simp) (by simp) (by simp) (by simp)
  | received | complete | drained | hold | buffer | refill | finish | beginLoad | dropLoad =>
    exact h.congr rfl rfl rfl rfl

theorem Moves.places {s t : State} (m : Moves s t) (h : PlacesRight s) : PlacesRight t := by
  induction m with
  | refl => exact h
  | tail _ m ih => exact m.places ih

/-- R40, R157: the end of a load that brings a table with right panes. -/
theorem endLoadTaken_places {q : Byte} {t : Table} {s : State} (h : PlacesRight s) (ht : TableRight t) :
    PlacesRight (endLoadTaken q t s) := by
  have replaced : ∀ u : State, u.cmd.shadow = some t → u.ctrl = s.ctrl → PlacesRight (endLoadReplaced t u) := by
    intro u hu hk
    have right : PlacesRight (onCtrl (fun c => { c with loadHold := false }) u) := by
      refine ⟨fun t' ht' => ?_, ?_, ?_, ?_⟩
      · rw [onCtrl_cmd, hu] at ht'
        exact Option.some.inj ht' ▸ ht
      all_goals simp only [onCtrl_ctrl, hk]
      · exact h.2.1
      · exact h.2.2.1
      · exact h.2.2.2
    unfold endLoadReplaced
    dsimp only
    split
    · rename_i r hr
      unfold selfTransition at hr
      repeat' split at hr
      all_goals cases hr
      exact commitRecord_places right hu ‹_›
    · exact resolveSlot_places right
  exact (replaced (monitorNewTable t (replaceTable t .memory s)) rfl rfl).congr rfl rfl rfl rfl

/-- R174: the table taken at the end of CHECK has its panes right. -/
theorem takeBootTable_shadow (s : State) : ∃ t, (takeBootTable s).cmd.shadow = some t ∧ TableRight t := by
  unfold takeBootTable
  split
  · exact ⟨_, rfl, tableOfImage_right ‹_›⟩
  · exact ⟨_, rfl, builtInTable_right⟩

theorem bootCommit_places {s : State} (h : PlacesRight s) : PlacesRight (bootCommit (takeBootTable s)) := by
  obtain ⟨t, ht, right⟩ := takeBootTable_shadow s
  have table : ∀ t', (takeBootTable s).cmd.shadow = some t' → TableRight t' := fun t' h' => by
    rw [ht] at h'
    exact Option.some.inj h' ▸ right
  refine beginTransition_places ⟨table, ?_, ?_, ?_⟩ (bootTarget_places table) nofun
  · simpa using h.2.1
  · simpa using h.2.2.1
  · simpa using h.2.2.2

theorem exec_places {c : Instr} {s t : State} (h : PlacesRight s) (he : exec c s = .next t) : PlacesRight t := by
  cases c with
  | resetNRelease =>
    rw [resetNRelease_next he]
    exact ⟨nofun, nofun, nofun, nofun⟩
  | loaderReadAnswer a =>
    rcases exec_loaderReadAnswer he with m | ⟨x, l, q, img, hx, -, -, hv, ht⟩
    · exact m.places h
    · exact ht.places (endLoadTaken_places ((hx.places h).congr rfl rfl rfl rfl) (tableOfImage_right hv))
  | bootCheckEnd p =>
    obtain ⟨-, u, hu, ht, -⟩ := exec_bootCheckEnd he
    exact (hu.places (bootCommit_places h)).still ht
  | _ => exact (exec_moves he nofun nofun nofun).places h

/-- The queue of commands is none of what the moves change. -/
theorem pending_moves (rest : List Instr) (s : State) : Moves s { s with pending := rest } :=
  .of_eq rfl rfl rfl rfl rfl

/-- Settles O56: the moves keep the panes (`Moves.places`), and a table that replaces the shadow table is that of a valid
image or the built-in one. -/
theorem placesStayRight : Obligations.PlacesStayRight := by
  intro s t h he
  unfold step at he
  cases hp : s.pending with
  | nil =>
    simp only [hp, Host.Outcome.next.injEq] at he
    exact he ▸ h
  | cons c rest =>
    simp only [hp] at he
    exact exec_places ((pending_moves rest s).places h) he

end Sys2Proof.Machine
end

section
/-!
O54, the controller's part: the record copies, the table, the load hold, the slot and the map through every move (R101,
R104, R109, R112).
-/
namespace Sys2Proof.Machine

/-! ## What is kept -/

/-- `TransitionRight` but for the boot loader's state, which the commands that change it settle by themselves. -/
structure SteerRight (s : State) : Prop where
  records : RecordsRight s
  table : s.cmd.shadow = none ↔ s.ctrl.state = .loading
  load : LoadRight s
  slot : SlotRight s
  map : MapRight s

theorem TransitionRight.steer {s : State} (h : TransitionRight s) : SteerRight s :=
  ⟨h.records, h.boot.1, h.load, h.slot, h.map⟩

theorem SteerRight.transition {s : State} (h : SteerRight s)
    (hb : s.boot.state = .finished ↔ s.ctrl.state ≠ .loading) : TransitionRight s :=
  ⟨h.records, ⟨h.table, hb⟩, h.load, h.slot, h.map⟩

/-- The states in which the engine works (R112). -/
def Engaged (s : State) : Prop := s.ctrl.state = .draining ∨ s.ctrl.state = .relocating

/-- R104: a load runs that RESTART has not abandoned. -/
def LoadRuns (s : State) : Prop := ∃ l, s.cmd.load = some l ∧ l.abandoned = false

theorem loadRuns_iff (s : State) : LoadRuns s ↔ s.cmd.load.map (·.abandoned) = some false := by simp [LoadRuns]

theorem MapRight.of_engaged {s : State} (hl : s.engine.map.length = 4860) (he : Engaged s) : MapRight s :=
  ⟨hl, fun hd hr => (he.elim hd hr).elim⟩

/-- R112: outside DRAINING and RELOCATING nothing of the engine is at work. -/
theorem MapRight.rest {s : State} (h : MapRight s) (he : ¬ Engaged s) : s.engine.map.all isFinished = true ∧
    s.engine.tb0 = .empty ∧ s.engine.tb1 = .empty ∧ s.engine.hold = [] :=
  h.2 (fun hd => he (.inl hd)) fun hr => he (.inr hr)

theorem MapRight.idle {s : State} (h : MapRight s) (he : ¬ Engaged s) (b : BufferId) : bufferOf b s.engine = .empty := by
  obtain ⟨-, h0, h1, -⟩ := h.rest he
  cases b
  · exact h0
  · exact h1

/-- R112: a buffer that is not EMPTY says that the engine works. -/
theorem MapRight.engaged {s : State} (h : MapRight s) {b : BufferId} (hb : bufferOf b s.engine ≠ .empty) : Engaged s :=
  Classical.byContradiction fun he => hb (h.idle he b)

/-- What the map says is of the map, the buffers and the hold queue alone, and of the last that it is empty. -/
theorem MapRight.congr {s t : State} (h : MapRight s) (hs : t.ctrl.state = s.ctrl.state)
    (hm : t.engine.map = s.engine.map) (h0 : t.engine.tb0 = s.engine.tb0) (h1 : t.engine.tb1 = s.engine.tb1)
    (hh : s.engine.hold = [] → t.engine.hold = []) : MapRight t := by
  unfold MapRight
  rw [hs, hm, h0, h1]
  refine ⟨h.1, fun hd hr => ?_⟩
  obtain ⟨map, b0, b1, hold⟩ := h.2 hd hr
  exact ⟨map, b0, b1, hh hold⟩

/-- A part of the same records, table, load hold and slot. -/
theorem SteerRight.of {s t : State} (h : SteerRight s) (hk : ∃ w, t.ctrl = { s.ctrl with oldWrites := w })
    (ht : t.cmd.shadow = s.cmd.shadow) (hl : LoadRuns t ↔ LoadRuns s) (hm : MapRight t) : SteerRight t := by
  obtain ⟨w, hk⟩ := hk
  obtain ⟨records, table, load, slot, -⟩ := h
  refine ⟨?_, ?_, ?_, ?_, hm⟩
  · unfold RecordsRight
    rw [hk]
    exact records
  · rw [hk, ht]
    exact table
  · unfold LoadRight
    rw [hk]
    exact ⟨load.1.trans hl.symm, load.2⟩
  · unfold SlotRight targetNumber activeNumber
    rw [hk]
    exact slot

/-- A part of the same controller and command block. -/
theorem SteerRight.of_engine {s t : State} (h : SteerRight s) (hk : t.ctrl = s.ctrl) (hc : t.cmd = s.cmd)
    (hm : MapRight t) : SteerRight t :=
  h.of ⟨_, hk⟩ (by rw [hc]) (by rw [LoadRuns, hc]; rfl) hm

section
variable {s : State} (h : SteerRight s)
include h

/-- R104: outside STEADY no load hold is ON. -/
theorem SteerRight.unheld (hs : s.ctrl.state ≠ .steady) : s.ctrl.loadHold = false :=
  Bool.eq_false_iff.2 fun hh => hs (h.load.2 hh)

/-- R109: in STEADY without load hold the slot is empty. -/
theorem SteerRight.slot_none (hs : s.ctrl.state = .steady) (hh : s.ctrl.loadHold = false) : s.ctrl.slot = none := by
  cases hn : s.ctrl.slot with
  | none => rfl
  | some n =>
    rcases h.slot n hn with ⟨ht, -⟩ | ⟨hl, -⟩
    · rw [hs] at ht
      cases ht
    · rw [hh] at hl
      cases hl

end

/-- R101: outside LOADING there is a table. -/
theorem SteerRight.tabled {s : State} (h : SteerRight s) (hs : s.ctrl.state ≠ .loading) : s.cmd.shadow ≠ none :=
  fun ht => hs (h.table.1 ht)

theorem not_steady_of_transition {x : CtrlState} (h : inTransition x = true) : x ≠ .steady ∧ x ≠ .loading := by
  refine ⟨?_, ?_⟩ <;> rintro rfl <;> cases h

/-- R101: from one state of a transition to another. -/
theorem SteerRight.onward {s : State} {x : CtrlState} (h : SteerRight s) (hs : inTransition s.ctrl.state = true)
    (hx : inTransition x = true) (hm : MapRight (onCtrl (fun c => { c with state := x }) s)) :
    SteerRight (onCtrl (fun c => { c with state := x }) s) := by
  obtain ⟨steady, loading⟩ := not_steady_of_transition hs
  obtain ⟨steady', loading'⟩ := not_steady_of_transition hx
  have unheld := h.unheld steady
  refine ⟨⟨iff_of_true (h.records.1.2 hs) hx, fun hh => absurd hh steady', fun hh => absurd hh loading'⟩,
    iff_of_false (h.tabled loading) loading', ⟨h.load.1, fun hh => absurd (unheld ▸ hh) nofun⟩, fun n hn => ?_, hm⟩
  rcases h.slot n hn with ⟨-, other⟩ | ⟨held, -⟩
  · exact .inl ⟨hx, other⟩
  · exact absurd (unheld ▸ held) nofun

/-! ## Commits (R106, R117, R118) -/

/-- R106: a commit begins a drain or the relocation. -/
theorem beginTransition_engaged (d : DrainKind) (r : RecordCopy) (o : Option RecordCopy) (s : State) :
    Engaged (beginTransition d r o s) := by
  unfold Engaged
  rw [(beginTransition_spec d r o s).1.ctrl]
  dsimp only
  split
  · exact .inr rfl
  · exact .inl rfl

theorem Engaged.inside {s : State} (h : Engaged s) : inTransition s.ctrl.state = true := by
  rcases h with h | h <;> rw [h] <;> rfl

/-- R106: a commit with a table, without load, of another number than the slot's. -/
theorem beginTransition_steer {d : DrainKind} {r : RecordCopy} {o : Option RecordCopy} {s : State}
    (table : s.cmd.shadow ≠ none) (hold : s.ctrl.loadHold = false) (load : ¬ LoadRuns s)
    (slot : ∀ n, s.ctrl.slot = some n → r.number ≠ n) : SteerRight (beginTransition d r o s) := by
  obtain ⟨⟨-, ctrl, -⟩, length, -⟩ := beginTransition_spec d r o s
  have engaged := beginTransition_engaged d r o s
  obtain ⟨steady, loading⟩ := not_steady_of_transition engaged.inside
  have held : (beginTransition d r o s).ctrl.loadHold = false := by rw [ctrl]; exact hold
  have target : (beginTransition d r o s).ctrl.target = some r := by rw [ctrl]
  refine ⟨⟨?_, fun h => absurd h steady, fun h => absurd h loading⟩, ?_, ⟨?_, ?_⟩, fun n hn => .inl ⟨engaged.inside, ?_⟩,
    .of_engaged length engaged⟩
  · simp [target, engaged.inside]
  · simp [table, loading]
  · exact iff_of_false (by rw [held]; nofun) (by simpa [LoadRuns] using load)
  · rw [held]
    nofun
  · rw [ctrl] at hn
    simpa [targetNumber, target] using slot n hn

/-- R103, R110: a commit from STEADY without load hold. -/
theorem commitLayout_steer {n : Nat} {s : State} (h : SteerRight s) (hs : s.ctrl.state = .steady)
    (hh : s.ctrl.loadHold = false) : SteerRight (commitLayout n s) := by
  have idle : ¬ LoadRuns s := fun hl => by
    have held := h.load.1.2 hl
    rw [hh] at held
    cases held
  unfold commitLayout
  split
  · exact h
  · rename_i t ht
    split
    · exact h
    · exact beginTransition_steer (by rw [ht]; nofun) hh idle (by rw [h.slot_none hs hh]; nofun)

/-- R110: the resolution of the slot in STEADY without load hold, the rest being right with the slot empty. -/
theorem resolveSlot_steer {s : State} (h : SteerRight (onCtrl (fun c => { c with slot := none }) s))
    (hs : s.ctrl.state = .steady) (hh : s.ctrl.loadHold = false) : SteerRight (resolveSlot s) := by
  unfold resolveSlot
  split
  · rename_i hn
    have same : onCtrl (fun c => { c with slot := none }) s = s := by
      rw [onCtrl, ← hn]
    exact same ▸ h
  · exact commitLayout_steer h hs hh

/-- R114: the flip from FLIP_WAIT. -/
theorem flip_steer {s : State} (h : SteerRight s) (hs : s.ctrl.state = .flipWait) : SteerRight (flip s) := by
  have hold := h.unheld (by rw [hs]; nofun)
  have target : s.ctrl.target.isSome = true := h.records.1.2 (by rw [hs]; rfl)
  rw [flip_eq]
  refine resolveSlot_steer ⟨⟨⟨nofun, nofun⟩, fun _ => ⟨target, rfl⟩, nofun⟩, ⟨fun ht => ?_, nofun⟩, ⟨h.load.1, ?_⟩, nofun,
    h.map.1, fun _ _ => h.map.rest (by unfold Engaged; rw [hs]; decide)⟩ rfl hold
  · have loading := h.table.1 ht
    rw [hs] at loading
    cases loading
  · intro hh
    exact absurd (hold ▸ hh) nofun

/-- R104: the load hold ends, in STEADY, and the slot is still to resolve. -/
theorem SteerRight.loadEnds {s t : State} (h : SteerRight s) (hl : LoadRuns s)
    (hk : t.ctrl = { s.ctrl with loadHold := false, slot := none }) (ht : t.cmd.shadow ≠ none) (hn : t.cmd.load = none)
    (he : t.engine = s.engine) : SteerRight t := by
  have steady := h.load.2 (h.load.1.2 hl)
  have map : MapRight t := h.map.congr (by rw [hk]) (by rw [he]) (by rw [he]) (by rw [he]) (by rw [he]; exact id)
  have records : RecordsRight t := by
    unfold RecordsRight
    rw [hk]
    exact h.records
  refine ⟨records, ?_, ⟨?_, ?_⟩, ?_, map⟩
  · rw [hk]
    simp [ht, steady]
  · rw [hk, hn]
    simp
  · rw [hk]
    nofun
  · unfold SlotRight
    rw [hk]
    nofun

theorem SteerRight.steady_of_load {s : State} (h : SteerRight s) (hl : LoadRuns s) : s.ctrl.state = .steady :=
  h.load.2 (h.load.1.2 hl)

/-- R104, R157: the end of a load that is not taken. -/
theorem endLoadKept_steer {s : State} (h : SteerRight s) (hl : LoadRuns s) :
    SteerRight (endLoadKept (onCmd (fun c => { c with load := none }) s)) := by
  have steady := h.steady_of_load hl
  exact resolveSlot_steer (h.loadEnds hl rfl (h.tabled (by rw [steady]; nofun)) rfl rfl) steady rfl

/-- R111: the self-transition commits the record of the active number. -/
theorem selfTransition_some {t : Table} {s : State} {r : LayoutRecord} (h : selfTransition t s = some r) :
    ∃ a, s.ctrl.active = some a ∧ tableRecord t a.number = some r ∧ sameArrangement (copyRecord t r) a = false := by
  unfold selfTransition at h
  repeat' split at h
  all_goals cases h
  exact ⟨_, ‹_›, ‹_›, Bool.eq_false_iff.2 ‹_›⟩

/-- R42: the copy of a record that the table holds has its number. -/
theorem copyRecord_number {t : Table} {n : Nat} {r : LayoutRecord} (h : tableRecord t n = some r) :
    (copyRecord t r).number = n := by
  have found := List.find?_some h
  exact eq_of_beq found

/-- R40, R104, R111, R157: the end of a load with result loaded. -/
theorem endLoadTaken_steer {q : Byte} {t : Table} {s : State} (h : SteerRight s) (hl : LoadRuns s) :
    SteerRight (endLoadTaken q t (onCmd (fun c => { c with load := none }) s)) := by
  have steady := h.steady_of_load hl
  have replaced : ∀ u : State, u.cmd.shadow = some t → u.cmd.load = none → u.ctrl = s.ctrl → u.engine = s.engine →
      SteerRight (endLoadReplaced t u) := fun u hu hn hk he => by
    unfold endLoadReplaced
    dsimp only
    split
    · rename_i r hr
      obtain ⟨a, ha, found, -⟩ := selfTransition_some hr
      refine beginTransition_steer (by simp [hu]) rfl (by simp [LoadRuns, hn]) fun n hs same => ?_
      rw [copyRecord_number found] at same
      simp only [onCtrl_ctrl, hk] at ha hs
      rcases h.slot n hs with ⟨inside, -⟩ | ⟨-, other⟩
      · rw [steady] at inside
        cases inside
      · exact other (by rw [activeNumber, ha, ← same]; rfl)
    · refine resolveSlot_steer (h.loadEnds hl ?_ (by simp [hu]) (by simp [hn]) (by simp [he])) (by simp [hk, steady]) rfl
      simp [hk]
  have ends := replaced (monitorNewTable t (replaceTable t .memory (onCmd (fun c => { c with load := none }) s)))
    rfl rfl rfl rfl
  exact ends.of_engine rfl rfl ends.map

/-- R118, R160: RESTART outside LOADING. -/
theorem restartRunning_steer {q : Byte} {s : State} (h : SteerRight s) (hs : s.ctrl.state ≠ .loading) :
    SteerRight (restartRunning q s) := by
  have cmd : (restartCleared s).cmd = (abandonLoad s).cmd := by simp [restartCleared]
  have abandoned : ¬ LoadRuns (abandonLoad s) := by
    rintro ⟨l, hl, ha⟩
    cases hc : s.cmd.load with
    | none =>
      rw [(abandonLoad_load s).1 hc] at hl
      cases hl
    | some m =>
      obtain ⟨ended, runs⟩ := (abandonLoad_load s).2 m hc
      by_cases hm : m.inFlight = 0
      · rw [ended hm] at hl
        cases hl
      · rw [runs hm] at hl
        cases hl
        cases ha
  have commit : SteerRight (restartCommit (restartCleared s)) := by
    refine beginTransition_steer ?_ rfl ?_ nofun
    · simpa [cmd, abandonLoad] using h.tabled hs
    · simpa [LoadRuns, cmd] using abandoned
  exact commit.of_engine rfl rfl commit.map

/-- R117, R174: the boot transition. -/
theorem bootCommit_steer {s : State} (h : SteerRight s) (hs : s.ctrl.state = .loading) :
    SteerRight (bootCommit (takeBootTable s)) := by
  have hold := h.unheld (by rw [hs]; nofun)
  obtain ⟨t, ht, -⟩ := takeBootTable_shadow s
  have load : (takeBootTable s).cmd.load = s.cmd.load := by
    unfold takeBootTable
    split <;> rfl
  refine beginTransition_steer (by rw [ht]; nofun) (by simpa using hold) (fun hl => ?_) fun n hn => ?_
  · rw [LoadRuns, load] at hl
    have held := h.load.1.2 hl
    rw [hold] at held
    cases held
  · rcases h.slot n (by simpa using hn) with ⟨inside, -⟩ | ⟨held, -⟩
    · rw [hs] at inside
      cases inside
    · rw [hold] at held
      cases held

/-! ## The engine's moves -/

/-- R131: takes of tiles. -/
theorem takeTiles_map {s : State} (h : MapRight s) : MapRight (takeTiles s) := by
  obtain ⟨hold, -, length, -⟩ := takeTiles_spec s
  by_cases he : Engaged s
  · exact .of_engaged (length.trans h.1) (by simpa [Engaged] using he)
  · obtain ⟨finished, -⟩ := h.rest he
    obtain ⟨map, b0, b1⟩ := takeTiles_finished (List.all_eq_true.1 finished)
    exact h.congr (by simp) map b0 b1 fun hh => hold.trans hh

/-- R152: a buffer's work. -/
theorem SameWork.busy {x y : TileBuffer} (h : SameWork x y) : x ≠ .empty := by cases h <;> nofun

/-- A buffer at work set, and an entry with it. -/
theorem SteerRight.set {b : BufferId} {x : TileBuffer} {m : List TileState} {s : State} (h : SteerRight s)
    (hb : bufferOf b s.engine ≠ .empty) (hm : m.length = s.engine.map.length) :
    SteerRight (onEngine (fun e => setBuffer b x { e with map := m }) s) :=
  h.of_engine rfl rfl (.of_engaged (by simpa using hm.trans h.map.1) (h.map.engaged hb))

theorem SteerRight.still {s t : State} (h : SteerRight s) (k : Still s t) : SteerRight t := by
  obtain ⟨w, hk⟩ := k.ctrl
  obtain ⟨_, _, he⟩ := k.engine
  refine h.of ⟨w, hk⟩ k.shadow (by rw [loadRuns_iff, loadRuns_iff, k.load]) ?_
  exact h.map.congr (by rw [hk]) (by rw [he]) (by rw [he]) (by rw [he]) (by rw [he]; exact id)

/-- R101, R104, R109, R112: every move. -/
theorem Move.steer {s t : State} (m : Move s t) (h : SteerRight s) : SteerRight t := by
  cases m with
  | still k => exact h.still k
  | received => exact h.of_engine rfl rfl h.map
  | slot current n guard =>
    rw [slotRequest_eq]
    refine ⟨h.records, h.table, h.load, fun k hk => ?_, h.map⟩
    obtain ⟨other, rfl⟩ : current ≠ some n ∧ n = k := by simpa [slotTakes] using hk
    rcases guard with ⟨inside, rfl⟩ | ⟨held, rfl⟩
    · exact .inl ⟨inside, other⟩
    · exact .inr ⟨held, other⟩
  | commit n hs hh => exact commitLayout_steer h hs hh
  | complete hs hc =>
    obtain ⟨finished, b0, b1, hold⟩ := (relocationComplete_iff _).1 hc
    exact h.onward (by rw [hs]; rfl) rfl ⟨h.map.1, fun _ _ => ⟨List.all_eq_true.2 finished, b0, b1, hold⟩⟩
  | flip hs => exact flip_steer h hs
  | drained hs => exact h.onward (by rw [hs]; rfl) rfl (.of_engaged h.map.1 (.inr rfl))
  | take => exact h.of_engine (by simp) (by simp) (takeTiles_map h.map)
  | hold key he => exact h.of_engine rfl rfl (.of_engaged h.map.1 he)
  | promote c =>
    obtain ⟨o, -⟩ := promoteTiles_spec c.tiles s
    refine h.of_engine (by simp) (by simp) (h.map.congr (by simp) ?_ ?_ ?_ ?_) <;> rw [o]
    exact id
  | release =>
    obtain ⟨-, o⟩ := releaseHeld_spec s
    refine h.of_engine (by simp) (by simp) (h.map.congr (by simp) ?_ ?_ ?_ ?_) <;> rw [o]
    intro hh
    simp [hh]
  | buffer b w => exact h.set w.busy rfl
  | refill b k hb => exact h.set (by rw [hb]; nofun) (by simp)
  | finish b hb => exact h.set (by rw [hb]; nofun) (by simp)
  | beginLoad q hs =>
    have inside : inTransition s.ctrl.state = false := by rw [hs]; rfl
    refine ⟨h.records, h.table, ⟨⟨fun _ => ⟨_, rfl, rfl⟩, fun _ => rfl⟩, fun _ => hs⟩, fun n hn => .inr ⟨rfl, ?_⟩, h.map⟩
    rcases h.slot n hn with ⟨ht, -⟩ | ⟨-, other⟩
    · rw [inside] at ht
      cases ht
    · exact other
  | dropLoad ha =>
    refine h.of ⟨_, rfl⟩ rfl ?_ h.map
    have before : ¬ LoadRuns s := fun ⟨l, hl, hr⟩ => by
      rw [ha l hl] at hr
      cases hr
    refine iff_of_false ?_ before
    rintro ⟨l, hl, hr⟩
    cases hc : s.cmd.load with
    | none => simp [dropLoadAnswer, hc] at hl
    | some m =>
      have hm := ha m hc
      simp only [dropLoadAnswer, onCmd_cmd, hc] at hl
      split at hl
      · cases hl
      · cases hl
        rw [hm] at hr
        cases hr
  | endLoad hl ha => exact endLoadKept_steer h ⟨_, hl, ha⟩
  | abort =>
    refine h.of_engine (by simp) (by simp) (h.map.congr (by simp) ?_ ?_ ?_ ?_) <;> rw [abortWaiting_engine]
    exact fun _ => rfl
  | restart q hs => exact restartRunning_steer h hs

theorem Moves.steer {s t : State} (m : Moves s t) (h : SteerRight s) : SteerRight t := by
  induction m with
  | refl => exact h
  | tail _ m ih => exact m.steer ih

end Sys2Proof.Machine
end

section
/-!
O54, the requests' tiles: what a surface request touches lies on the panel (R43, R52, R54 to R56, R58, R62).
-/
namespace Sys2Proof.Machine

/-- R55: a turned pixel lies within the turned extent. -/
theorem turnPixel_inside {p : Pane} {lx ly : Nat} (hx : lx < 40 * p.w) (hy : ly < 40 * p.h) :
    (turnPixel p.orient (40 * p.w) (40 * p.h) lx ly).1 < 40 * paneWidth p ∧
      (turnPixel p.orient (40 * p.w) (40 * p.h) lx ly).2 < 40 * paneHeight p := by
  unfold turnPixel paneWidth paneHeight
  cases p.orient <;> dsimp only <;> omega

/-- R52, R54: the pane-local pixel of a covered one lies within the pane's logical extent. -/
theorem paneLocal_inside {k : Nat} {p : Pane} {q : LogicalPixel} (h : coversPixel k p q = true) :
    (paneLocal p q).1 < 40 * p.w ∧ (paneLocal p q).2 < 40 * p.h := by
  simp only [coversPixel, paneCovers, Bool.and_eq_true, decide_eq_true_eq] at h
  obtain ⟨-, ⟨⟨u0, u1⟩, v0⟩, v1⟩ := h
  unfold paneLocal
  dsimp only
  split <;> constructor <;> omega

/-- R43, R56: a pixel placed under a covering pane lies on the panel. -/
theorem placePixel_onPanel {k : Nat} {p : Pane} {q : LogicalPixel} (hp : PaneInside p) (h : coversPixel k p q = true) :
    OnPanel (tileOfPixel (placePixel p q)) := by
  obtain ⟨lx, ly⟩ := paneLocal_inside h
  obtain ⟨tx, ty⟩ := turnPixel_inside lx ly
  obtain ⟨-, -, width, height⟩ := hp
  unfold OnPanel tileOfPixel placePixel
  dsimp only
  omega

/-- R52: the panes named as covering a pixel cover it. -/
theorem coversPixel_of_coveringPanes {k j : Nat} {rc : RecordCopy} {q : LogicalPixel} {p : Pane}
    (hj : j ∈ coveringPanes k rc q) (hp : rc.panes[j]? = some p) : coversPixel k p q = true := by
  obtain ⟨⟨p', j'⟩, hm, rfl⟩ := List.mem_map.1 hj
  obtain ⟨hm, covers⟩ := List.mem_filter.1 hm
  have found : rc.panes[j']? = some p' := List.mem_zipIdx_iff_getElem?.1 hm
  rw [hp] at found
  cases found
  exact covers

/-- R53, R57: a pixel that takes part for a pane is placed under it. -/
theorem placedFor_onPanel {k : Nat} {snap : Option Snapshot} {rc : RecordCopy} {r : Request} {j i : Nat} {q : Placed}
    (hr : PanesRight rc.panes) (h : placedFor k snap rc r j i = some q) : OnPanel (tileOfPixel q.pos) := by
  unfold placedFor at h
  split at h
  · rename_i l p _ hp
    have inside := hr.1 p (List.mem_of_getElem? hp)
    dsimp only at h
    split at h
    · repeat' split at h
      all_goals cases h
      exact placePixel_onPanel inside ‹_›
    · split at h
      · rename_i hj
        cases h
        exact placePixel_onPanel inside (coversPixel_of_coveringPanes (List.mem_of_head? hj) hp)
      · cases h
  · cases h

/-- R58: a pixel of a run takes part for the run's pane. -/
theorem paneRuns_pixel {k : Nat} {snap : Option Snapshot} {rc : RecordCopy} {r : Request} {j : Nat} {run : Run}
    {q : Placed} (hr : run ∈ paneRuns k snap rc r j) (hq : q ∈ run.pixels) : ∃ i, placedFor k snap rc r j i = some q := by
  obtain ⟨n, hn⟩ : ∃ n, (q, n) ∈ runPixels run := by
    obtain ⟨m, hm⟩ := List.getElem?_of_mem (List.mem_reverse.2 hq)
    exact ⟨run.first + m, List.mem_zipIdx_iff_le_and_getElem?_sub.2 ⟨by simp, by simpa using hm⟩⟩
  have all := gatherRuns_pixels ((List.range (bodyCount r.body)).map (placedFor k snap rc r j)) 0 none (by simp)
  have part : (q, n) ∈ (paneRuns k snap rc r j).flatMap runPixels := List.mem_flatMap.2 ⟨run, hr, hn⟩
  rw [paneRuns, all] at part
  simp only [Option.toList_none, List.flatMap_nil, List.nil_append, takingPart, List.mem_filterMap,
    Option.map_eq_some_iff] at part
  obtain ⟨⟨o, m⟩, hm, q', ho, same⟩ := part
  cases same
  obtain ⟨i, -, hi⟩ := List.mem_map.1 (List.fst_mem_of_mem_zipIdx hm)
  exact ⟨i, hi.trans ho⟩

theorem mem_of_mem_dropRepeats {α : Type} [DecidableEq α] {a : α} : ∀ {l : List α}, a ∈ dropRepeats l → a ∈ l
  | [], h => h
  | _ :: _, h => by
    rcases List.mem_cons.1 h with rfl | h
    · exact List.mem_cons_self
    · exact List.mem_cons_of_mem _ (mem_of_mem_dropRepeats (List.mem_of_mem_filter h))

/-- R62: the tiles of a context made of a record with right panes lie on the panel. -/
theorem makeContext_onPanel {p : Port} {gen : BitVec 16} {rc : RecordCopy} {b : Bank} {snap : Option Snapshot} {k : Nat}
    {r : Request} (hr : PanesRight rc.panes) : ∀ t ∈ (makeContext p gen rc b snap k r).tiles, OnPanel t.tile := by
  intro t ht
  obtain ⟨⟨j, run⟩, hm, ht⟩ := List.mem_flatMap.1 (mem_of_mem_dropRepeats ht)
  obtain ⟨q, hq, rfl⟩ := List.mem_map.1 ht
  obtain ⟨i, -, hm⟩ := List.mem_flatMap.1 hm
  obtain ⟨jr, hj, hm⟩ := List.mem_flatMap.1 hm
  obtain ⟨j', -, rfl⟩ := List.mem_map.1 hj
  obtain ⟨run', hrun, same⟩ := List.mem_map.1 hm
  cases same
  obtain ⟨i, hi⟩ := paneRuns_pixel (List.mem_of_mem_filter hrun) (List.mem_reverse.1 hq)
  exact placedFor_onPanel hr hi

/-- Log 27: an absent record counts as the blank one. -/
theorem getD_right {o : Option RecordCopy} (h : ∀ c, o = some c → PanesRight c.panes) :
    PanesRight (o.getD blankRecord).panes := by
  cases o with
  | none => exact blankRecord_right
  | some c => exact h c rfl

theorem targetRecord_right {s : State} (h : PlacesRight s) : PanesRight (targetRecord s).panes := getD_right h.2.2.1

/-- R46, R62: the tiles of a request received lie on the panel. -/
theorem receive_onPanel {p : Port} {k : Nat} {r : Request} {s : State} (h : PlacesRight s) :
    ∀ t ∈ (receive p k r s).tiles, OnPanel t.tile := by
  refine makeContext_onPanel ?_
  unfold governingRecord
  split
  · exact getD_right h.2.1
  · exact getD_right h.2.2.1

end Sys2Proof.Machine
end

section
/-!
O54, the engine's part: the map, the promotion queue and the buffers through every move (R125, R131, R132, R146).
-/
namespace Sys2Proof.Machine

/-! ## What is kept -/

/-- The agreement of the engine, and that its queue holds no tile twice. -/
structure EngineRight (s : State) : Prop where
  once : s.engine.promotion.Nodup
  tiles : TilesRight s

/-- The agreement reads of the contexts the tiles alone. -/
theorem TilesRight.contexts {s t : State} (h : TilesRight s) (he : t.engine = s.engine)
    (hc : ∀ c ∈ t.contexts, ∀ u ∈ c.tiles, OnPanel u.tile) : TilesRight t :=
  have same : TilesRight { s with engine := t.engine } := h.congr rfl he
  ⟨hc, same.queued, same.moving, same.filling, same.reading, same.writing⟩

theorem EngineRight.congr {s t : State} (h : EngineRight s) (hc : t.contexts = s.contexts) (he : t.engine = s.engine) :
    EngineRight t := ⟨he ▸ h.once, h.tiles.congr hc he⟩

/-- So does an engine that changes its cursor, hold queue or last issuer. -/
theorem EngineRight.of {s t : State} (h : EngineRight s) (hm : t.engine.map = s.engine.map)
    (hp : t.engine.promotion = s.engine.promotion) (h0 : t.engine.tb0 = s.engine.tb0) (h1 : t.engine.tb1 = s.engine.tb1)
    (hc : ∀ c ∈ t.contexts, ∃ d ∈ s.contexts, d.tiles = c.tiles) : EngineRight t := by
  have tiles : TilesRight { s with engine := t.engine } := h.tiles.queue rfl hm h0 h1 (by rw [hp]; exact h.tiles.queued)
  refine ⟨hp ▸ h.once, tiles.contexts rfl fun c hm u hu => ?_⟩
  obtain ⟨d, hd, same⟩ := hc c hm
  exact h.tiles.touched d hd u (same ▸ hu)

/-! ## Commits (R106, R126) -/

/-- Neither READING nor WRITING. -/
def NotWorking (x : TileBuffer) : Prop := (∀ r, x ≠ .reading r) ∧ ∀ w, x ≠ .writing w

/-- R151: what RESTART leaves in a buffer. -/
theorem discardBuffer_notWorking (x : TileBuffer) : NotWorking (discardBuffer x) := by
  rw [discardBuffer_eq]
  cases x with
  | empty | discarding => exact ⟨nofun, nofun⟩
  | reading r | writing r =>
    dsimp only
    split <;> exact ⟨nofun, nofun⟩

/-- An engine ready for a commit: no buffer works on a tile, and whatever is queued or touched lies on the panel. -/
structure Committable (s : State) : Prop where
  once : s.engine.promotion.Nodup
  touched : ∀ c ∈ s.contexts, ∀ t ∈ c.tiles, OnPanel t.tile
  queued : ∀ t ∈ s.engine.promotion, OnPanel t
  idle : ∀ b, NotWorking (bufferOf b s.engine)

theorem Committable.congr {s t : State} (h : Committable s) (hc : t.contexts = s.contexts) (he : t.engine = s.engine) :
    Committable t := by
  refine ⟨?_, ?_, ?_, ?_⟩
  · exact he ▸ h.once
  · exact hc ▸ h.touched
  · exact he ▸ h.queued
  · exact he ▸ h.idle

theorem EngineRight.committable {s : State} (h : EngineRight s) (hm : MapRight s) (he : ¬ Engaged s) : Committable s :=
  ⟨h.once, h.tiles.touched, fun t ht => (h.tiles.queued t ht).1, fun b => by rw [hm.idle he b]; exact ⟨nofun, nofun⟩⟩

/-- A map of pending entries agrees with every engine ready for a commit. -/
theorem Committable.tiles {s : State} (h : Committable s)
    (pending : ∀ t, OnPanel t → isPending (entryAt s.engine.map t) = true) : TilesRight s where
  touched := h.touched
  queued := fun t ht => ⟨h.queued t ht, pending t (h.queued t ht)⟩
  moving := fun t m b ht he => by
    have p := pending t ht
    rw [he] at p
    cases p
  filling := fun t k b ht he => by
    have p := pending t ht
    rw [he] at p
    cases p
  reading := fun b r hb => absurd hb ((h.idle b).1 r)
  writing := fun b w hb => absurd hb ((h.idle b).2 w)

/-- R130, R131: takes. -/
theorem takeTiles_engineRight {s : State} (h : EngineRight s) (hr : PanesRight (targetRecord s).panes) :
    EngineRight (takeTiles s) :=
  ⟨(takeTiles_spec s).2.2.2.2.2.2 h.once, takeTiles_tiles h.tiles h.once (planTiles_panel hr)⟩

/-- R106, R126: a commit of a record with right panes. -/
theorem beginTransition_engineRight {d : DrainKind} {r : RecordCopy} {o : Option RecordCopy} {s : State}
    (h : Committable s) (hr : PanesRight r.panes) : EngineRight (beginTransition d r o s) := by
  obtain ⟨⟨⟨map, -, entries, begun⟩, -⟩, -⟩ := beginTransition_spec d r o s
  rw [begun]
  have ready : Committable (committing d r o map s) := ⟨h.once, h.touched, h.queued, fun b => by
    have same : bufferOf b (committing d r o map s).engine = bufferOf b s.engine := by cases b <;> rfl
    exact same ▸ h.idle b⟩
  refine takeTiles_engineRight ⟨h.once, ready.tiles fun t ht => ?_⟩ hr
  have entry : entryAt (committing d r o map s).engine.map t = planEntry r o t := entries t ht
  rw [entry]
  exact planEntry_pending r o t

/-- R103, R110: a commit from STEADY, or none. -/
theorem commitLayout_engineRight {n : Nat} {s : State} (h : EngineRight s) (hc : Committable s) (hp : PlacesRight s) :
    EngineRight (commitLayout n s) := by
  unfold commitLayout
  split
  · exact h
  · split
    · exact h
    · exact beginTransition_engineRight hc ((hp.1 _ ‹_›).copy ‹_›)

theorem resolveSlot_engineRight {s : State} (h : EngineRight s) (hc : Committable s) (hp : PlacesRight s) :
    EngineRight (resolveSlot s) := by
  unfold resolveSlot
  split
  · exact h
  · exact commitLayout_engineRight (h.congr rfl rfl) (hc.congr rfl rfl) (hp.congr rfl rfl rfl rfl)

/-- R40, R104, R157: the end of a load with result loaded. -/
theorem endLoadTaken_engineRight {q : Byte} {t : Table} {s : State} (h : EngineRight s) (hc : Committable s)
    (hp : PlacesRight s) (ht : TableRight t) : EngineRight (endLoadTaken q t s) := by
  have replaced : ∀ u : State, u.contexts = s.contexts → u.engine = s.engine → u.ctrl = s.ctrl →
      u.cmd.shadow = some t → EngineRight (endLoadReplaced t u) := fun u hu he hk hs => by
    have panes : PlacesRight u := by
      refine ⟨fun t' ht' => ?_, ?_⟩
      · rw [hs] at ht'
        exact Option.some.inj ht' ▸ ht
      · rw [hk]
        exact hp.2
    unfold endLoadReplaced
    dsimp only
    split
    · rename_i r hr
      obtain ⟨a, -, found, -⟩ := selfTransition_some hr
      exact beginTransition_engineRight (hc.congr hu he) (ht.copy found)
    · exact resolveSlot_engineRight (h.congr hu he) (hc.congr hu he) (panes.congr rfl rfl rfl rfl)
  exact (replaced (monitorNewTable t (replaceTable t .memory s)) rfl rfl rfl rfl).congr rfl rfl

/-- R19: the contexts that the aborts leave. -/
theorem abortWaiting_contexts {c : Context} {s : State} (h : c ∈ (abortWaiting s).contexts) : c ∈ s.contexts := by
  have kept := List.mem_of_mem_filter h
  simpa using kept

/-- R118, R151, R160: RESTART outside LOADING. -/
theorem restartRunning_engineRight {q : Byte} {s : State} (h : EngineRight s) (hp : PlacesRight s) :
    EngineRight (restartRunning q s) := by
  have contexts : ∀ c ∈ (restartCleared s).contexts, c ∈ s.contexts := fun c hc => by
    have kept : c ∈ (abortWaiting (onNotice discardReports (abandonLoad s))).contexts := by
      simpa [restartCleared] using hc
    exact abortWaiting_contexts kept
  have engine : (restartCleared s).engine = engineRestart { s.engine with hold := [] } := by
    simp [restartCleared, abortWaiting_engine, abandonLoad]
  have ready : Committable (restartCleared s) := by
    refine ⟨?_, fun c hc => h.tiles.touched c (contexts c hc), ?_, fun b => ?_⟩ <;> rw [engine]
    · exact .nil
    · nofun
    · cases b
      · exact discardBuffer_notWorking s.engine.tb0
      · exact discardBuffer_notWorking s.engine.tb1
  have shadow : (restartCleared s).cmd.shadow = s.cmd.shadow := by simp [restartCleared, abandonLoad]
  have commit : EngineRight (restartCommit (restartCleared s)) :=
    beginTransition_engineRight (ready.congr rfl rfl) (bootTarget_places (by simpa [shadow] using hp.1))
  exact commit.congr rfl rfl

/-- R117, R174: the boot transition. -/
theorem bootCommit_engineRight {s : State} (hc : Committable s) :
    EngineRight (bootCommit (takeBootTable s)) := by
  obtain ⟨t, ht, right⟩ := takeBootTable_shadow s
  refine beginTransition_engineRight (hc.congr (by simp) (by simp)) (bootTarget_places fun t' h' => ?_)
  rw [ht] at h'
  exact Option.some.inj h' ▸ right

/-! ## The buffers (R132 to R139, R152) -/

/-- The tile that a buffer works on. -/
def workTile : TileBuffer → Option Tile
  | .reading r => some r.tile
  | .writing w => some w.tile
  | _ => none

/-- R132: the tile of a buffer at work has an entry in operation that names the buffer. -/
theorem TilesRight.work {s : State} {b : BufferId} {t : Tile} (h : TilesRight s)
    (hb : workTile (bufferOf b s.engine) = some t) :
    OnPanel t ∧ ((∃ m, entryAt s.engine.map t = .moving m b) ∨ ∃ k, entryAt s.engine.map t = .filling k b) := by
  cases hx : bufferOf b s.engine with
  | empty | discarding =>
    rw [hx] at hb
    cases hb
  | reading r =>
    rw [hx] at hb
    cases hb
    obtain ⟨panel, entry⟩ := h.reading b r hx
    exact ⟨panel, .inl ⟨_, entry⟩⟩
  | writing w =>
    rw [hx] at hb
    cases hb
    obtain ⟨panel, move, fill⟩ := h.writing b w hx
    refine ⟨panel, ?_⟩
    cases hw : w.op with
    | move => exact .inl (move hw)
    | fill => exact .inr (fill hw)

/-- R132: an entry in operation names a buffer at work on its tile. -/
theorem TilesRight.named {s : State} {b : BufferId} {t : Tile} (h : TilesRight s) (ht : OnPanel t)
    (he : (∃ m, entryAt s.engine.map t = .moving m b) ∨ ∃ k, entryAt s.engine.map t = .filling k b) :
    workTile (bufferOf b s.engine) = some t := by
  rcases he with ⟨m, he⟩ | ⟨k, he⟩
  · rcases h.moving t m b ht he with ⟨r, hr, rfl, -⟩ | ⟨w, hw, rfl, -⟩
    · rw [hr]; rfl
    · rw [hw]; rfl
  · obtain ⟨w, hw, rfl, -⟩ := h.filling t k b ht he
    rw [hw]; rfl

/-- R137 to R139: the entry of the tile that a buffer works on, and the buffer, set together. -/
theorem TilesRight.settle {s : State} {b : BufferId} {t : Tile} {e : TileState} {x : TileBuffer} (h : TilesRight s)
    (hb : workTile (bufferOf b s.engine) = some t) (ha : Agreeing b t e x) :
    TilesRight (onEngine (fun g => setBuffer b x { g with map := setEntry g.map t e }) s) := by
  obtain ⟨panel, entry⟩ := h.work hb
  have unfinished : isPending (entryAt s.engine.map t) ≠ true ∧ entryAt s.engine.map t ≠ .done := by
    rcases entry with ⟨m, he⟩ | ⟨k, he⟩ <;> rw [he] <;> exact ⟨nofun, nofun⟩
  refine h.set panel unfinished.2 (fun hq => unfinished.1 (h.queued t hq).2) ha (fun d hd => ?_) fun u hu hne => ?_
  · rcases entry with ⟨m, he⟩ | ⟨k, he⟩ <;> rw [he] <;> constructor <;> rintro _ ⟨⟩ <;> exact hd rfl
  · constructor
    · intro m hm
      exact hne (Option.some.inj ((h.named hu (.inl ⟨m, hm⟩)).symm.trans hb))
    · intro k hk
      exact hne (Option.some.inj ((h.named hu (.inr ⟨k, hk⟩)).symm.trans hb))

/-- R136: a move that turns into the fill of its tile. -/
theorem Agreeing.fill {b : BufferId} {k : FillKind} {w : Writing} (hw : w.op = .fill) :
    Agreeing b w.tile (.filling k b) (.writing w) where
  moving := nofun
  filling := fun _ _ h => by cases h; exact ⟨rfl, w, rfl, rfl, hw⟩
  reading := nofun
  writing := fun _ h => by
    cases h
    refine ⟨rfl, fun hm => ?_, fun _ => ⟨k, rfl⟩⟩
    rw [hw] at hm
    cases hm

/-- R137, R139: a finished entry and an EMPTY buffer. -/
theorem Agreeing.finished {b : BufferId} {t : Tile} {e : TileState} (he : isFinished e = true) :
    Agreeing b t e .empty where
  moving := fun _ _ h => by rw [h] at he; cases he
  filling := fun _ _ h => by rw [h] at he; cases he
  reading := nofun
  writing := nofun

/-! A buffer whose content changes within the same work (R132, R135, R136, R152). -/

section
variable {x y : TileBuffer} (h : SameWork x y)
include h

theorem SameWork.moving {t : Tile} {m : MoveSpec}
    (hx : (∃ r, x = .reading r ∧ r.tile = t ∧ r.move = m) ∨ ∃ w, x = .writing w ∧ w.tile = t ∧ w.op = .move) :
    (∃ r, y = .reading r ∧ r.tile = t ∧ r.move = m) ∨ ∃ w, y = .writing w ∧ w.tile = t ∧ w.op = .move := by
  rcases hx with ⟨r, rfl, rfl, rfl⟩ | ⟨w, rfl, rfl, hw⟩
  · cases h with
    | reading ht hm => exact .inl ⟨_, rfl, ht, hm⟩
    | formed ht hm => exact .inr ⟨_, rfl, ht, hm⟩
  · cases h with
    | writing ht hm => exact .inr ⟨_, rfl, ht, hm.trans hw⟩

theorem SameWork.filling {t : Tile} (hx : ∃ w, x = .writing w ∧ w.tile = t ∧ w.op = .fill) :
    ∃ w, y = .writing w ∧ w.tile = t ∧ w.op = .fill := by
  obtain ⟨w, rfl, rfl, hw⟩ := hx
  cases h with
  | writing ht hm => exact ⟨_, rfl, ht, hm.trans hw⟩

theorem SameWork.of_reading {r : Reading} (hy : y = .reading r) :
    ∃ q, x = .reading q ∧ r.tile = q.tile ∧ r.move = q.move := by
  cases h with
  | reading ht hm => cases hy; exact ⟨_, rfl, ht, hm⟩
  | formed | writing | discarding | discarded => cases hy

theorem SameWork.of_writing {w : Writing} (hy : y = .writing w) :
    (∃ v, x = .writing v ∧ w.tile = v.tile ∧ w.op = v.op) ∨ ∃ r, x = .reading r ∧ w.tile = r.tile ∧ w.op = .move := by
  cases h with
  | writing ht hm => cases hy; exact .inl ⟨_, rfl, ht, hm⟩
  | formed ht hm => cases hy; exact .inr ⟨_, rfl, ht, hm⟩
  | reading | discarding | discarded => cases hy

end

/-- R132, R135, R136, R152: a request or an answer of a buffer's work. -/
theorem TilesRight.buffer {s : State} {b : BufferId} {x : TileBuffer} (h : TilesRight s)
    (hx : SameWork (bufferOf b s.engine) x) : TilesRight (onEngine (setBuffer b x) s) := by
  refine ⟨h.touched, ?_, ?_, ?_, ?_, ?_⟩ <;> simp only [onEngine_engine, setBuffer_map, setBuffer_promotion,
    bufferOf_setBuffer_eq]
  · exact h.queued
  · intro t m d ht he
    split
    · next same => exact hx.moving (same ▸ h.moving t m d ht he)
    · exact h.moving t m d ht he
  · intro t k d ht he
    split
    · next same => exact hx.filling (same ▸ h.filling t k d ht he)
    · exact h.filling t k d ht he
  · intro d r hr
    split at hr
    · next same =>
      obtain ⟨q, hq, tile, move⟩ := hx.of_reading hr
      rw [same, tile, move]
      exact h.reading b q hq
    · exact h.reading d r hr
  · intro d w hw
    split at hw
    · next same =>
      rw [same]
      rcases hx.of_writing hw with ⟨v, hv, tile, op⟩ | ⟨r, hr, tile, op⟩
      · rw [tile, op]
        exact h.writing b v hv
      · obtain ⟨panel, entry⟩ := h.reading b r hr
        rw [tile, op]
        exact ⟨panel, fun _ => ⟨_, entry⟩, nofun⟩
    · exact h.writing d w hw

/-! ## Every move -/

theorem not_engaged {s : State} {x : CtrlState} (hs : s.ctrl.state = x) (hd : x ≠ .draining) (hr : x ≠ .relocating) :
    ¬ Engaged s := by
  rintro (h | h)
  · exact hd (hs.symm.trans h)
  · exact hr (hs.symm.trans h)

theorem EngineRight.still {s t : State} (h : EngineRight s) (k : Still s t) : EngineRight t := by
  obtain ⟨_, _, he⟩ := k.engine
  exact h.of (by rw [he]) (by rw [he]) (by rw [he]) (by rw [he]) k.contexts

/-- R125, R131, R132, R146: every move. -/
theorem Move.engineRight {s t : State} (m : Move s t) (hs : SteerRight s) (hp : PlacesRight s) (h : EngineRight s) :
    EngineRight t := by
  cases m with
  | still k => exact h.still k
  | received p k r =>
    refine ⟨h.once, h.tiles.contexts rfl fun c hc => ?_⟩
    rcases List.mem_append.1 hc with hc | hc
    · exact h.tiles.touched c hc
    · rw [List.mem_singleton.1 hc]
      exact receive_onPanel hp
  | slot => exact h.congr (by simp) (by simp)
  | commit n hk =>
    exact commitLayout_engineRight h (h.committable hs.map (not_engaged hk nofun nofun)) hp
  | flip hk =>
    rw [flip_eq]
    exact resolveSlot_engineRight (h.congr rfl rfl)
      ((h.committable hs.map (not_engaged hk nofun nofun)).congr rfl rfl) ⟨hp.1, hp.2.2.1, nofun, nofun⟩
  | endLoad hl ha =>
    exact resolveSlot_engineRight (h.congr rfl rfl)
      ((h.committable hs.map (not_engaged (hs.steady_of_load ⟨_, hl, ha⟩) nofun nofun)).congr rfl rfl)
      (hp.congr rfl rfl rfl rfl)
  | complete | drained | beginLoad | dropLoad => exact h.congr rfl rfl
  | take => exact takeTiles_engineRight h (targetRecord_right hp)
  | hold => exact h.of rfl rfl rfl rfl fun c hc => ⟨c, hc, rfl⟩
  | promote c hc =>
    obtain ⟨-, -, -, -, once, -⟩ := promoteTiles_spec c.tiles s
    exact ⟨once h.once, promoteTiles_tiles h.tiles (h.tiles.touched c hc)⟩
  | release =>
    obtain ⟨-, o⟩ := releaseHeld_spec s
    refine h.of ?_ ?_ ?_ ?_ fun c hc => ⟨c, by simpa using hc, rfl⟩ <;> rw [o]
  | abort =>
    refine h.of ?_ ?_ ?_ ?_ fun c hc => ⟨c, abortWaiting_contexts hc, rfl⟩ <;> rw [abortWaiting_engine]
  | buffer b w => exact ⟨by simpa using h.once, h.tiles.buffer w⟩
  | refill b k hb ht hw =>
    refine ⟨by simpa using h.once, ?_⟩
    rw [← ht]
    exact h.tiles.settle (by rw [hb, ht]; rfl) (.fill hw)
  | finish b hb he => exact ⟨by simpa using h.once, h.tiles.settle (by rw [hb]; rfl) (.finished he)⟩
  | restart => exact restartRunning_engineRight h hp

theorem Moves.engineRight {s t : State} (m : Moves s t) (hs : SteerRight s) (hp : PlacesRight s) (h : EngineRight s) :
    EngineRight t := by
  induction m with
  | refl => exact h
  | tail before m ih => exact m.engineRight (Moves.steer before hs) (Moves.places before hp) ih

end Sys2Proof.Machine
end

section
/-!
O54: every command and every step.
-/
namespace Sys2Proof.Machine

/-- R40, R171: with a table and the boot loader FINISHED, the controller has left LOADING. -/
theorem SteerRight.booted {s : State} (h : SteerRight s) (hs : s.cmd.shadow ≠ none) (hb : s.boot.state = .finished) :
    TransitionRight s :=
  h.transition (iff_of_true hb fun hl => hs (h.table.2 hl))

theorem Moves.transition {s t : State} (m : Moves s t) (h : TransitionRight s) : TransitionRight t := by
  have steer := m.steer h.steer
  refine steer.transition ?_
  rw [m.boot, h.boot.2, ne_eq, ne_eq, ← h.boot.1, ← steer.table, m.table.1]

/-- R40, R157: the end of a load with result loaded brings its table. -/
theorem endLoadTaken_shadow (q : Byte) (t : Table) (s : State) : (endLoadTaken q t s).cmd.shadow = some t := by
  simp [endLoadTaken, replaceTable]

/-- R40, R43, R101, R104, R109, R112, R125, R131, R132, R146: every command keeps what the moves keep. -/
theorem exec_transition {c : Instr} {s t : State} (h : TransitionRight s) (he : exec c s = .next t) :
    TransitionRight t ∧ (PlacesRight s → EngineRight s → EngineRight t) := by
  have moved : Moves s t → TransitionRight t ∧ (PlacesRight s → EngineRight s → EngineRight t) :=
    fun m => ⟨m.transition h, m.engineRight h.steer⟩
  cases c with
  | resetNRelease =>
    rw [resetNRelease_next he]
    obtain ⟨records, boot, load, slot, map⟩ := reset_transitionRight
    exact ⟨⟨records, boot, load, slot, map⟩, fun _ _ => ⟨.nil, reset_tilesRight.congr rfl rfl⟩⟩
  | loaderReadAnswer a =>
    rcases exec_loaderReadAnswer he with m | ⟨x, l, q, img, hx, hl, ha, hv, ht⟩
    · exact moved m
    · have before := hx.transition h
      have runs : LoadRuns x := ⟨l, hl, ha⟩
      have steady := before.steer.steady_of_load runs
      have taken := endLoadTaken_steer (q := q) (t := tableOfImage img) before.steer runs
      refine ⟨ht.transition (taken.booted (by rw [endLoadTaken_shadow]; nofun) ?_), fun hp g => ?_⟩
      · simpa using before.boot.2.2 (by rw [steady]; nofun)
      · have engine := hx.engineRight h.steer hp g
        have idle := engine.committable before.map (not_engaged steady nofun nofun)
        have panes := (hx.places hp).congr (t := onCmd (fun c => { c with load := none }) x) rfl rfl rfl rfl
        have right := tableOfImage_right hv
        exact ht.engineRight taken (endLoadTaken_places panes right)
          (endLoadTaken_engineRight (engine.congr rfl rfl) (idle.congr rfl rfl) panes right)
  | bootCheckEnd p =>
    obtain ⟨hb, u, hu, k, finished⟩ := exec_bootCheckEnd he
    have loading : s.ctrl.state = .loading := by
      by_contra hs
      rw [h.boot.2.2 hs] at hb
      cases hb
    obtain ⟨tb, table, -⟩ := takeBootTable_shadow s
    have commit := bootCommit_steer h.steer loading
    refine ⟨((hu.steer commit).still k).booted ?_ finished, fun hp g => ?_⟩
    · rw [k.shadow, hu.table.1]
      simp [table]
    · have idle := g.committable h.map (not_engaged loading nofun nofun)
      exact (hu.engineRight commit (bootCommit_places hp) (bootCommit_engineRight idle)).still k
  | _ => exact moved (exec_moves he nofun nofun nofun)

/-- Settles O54: every command is a sequence of moves, or the replacement of the table between two of them
(`exec_transition`); the queues' bounds are needed for the promotion queue's having no tile twice. -/
theorem transitionStaysRight : Obligations.TransitionStaysRight := by
  intro s t h he
  unfold step at he
  cases hp : s.pending with
  | nil =>
    simp only [hp, Host.Outcome.next.injEq] at he
    exact he ▸ ⟨h, fun _ _ => id⟩
  | cons c rest =>
    simp only [hp] at he
    have popped := pending_moves rest s
    obtain ⟨transition, engine⟩ := exec_transition (popped.transition h) he
    refine ⟨transition, ?_⟩
    rintro ⟨-, -, -, once⟩ panes tiles
    exact (engine (popped.places panes) (popped.engineRight h.steer panes ⟨once, tiles⟩)).tiles

end Sys2Proof.Machine
end

section
/-!
O45: the placement of a pixel as that of its tile and of its offset within the tile (R54 to R56, R128).
-/
namespace Sys2Proof.Machine

/-- R54, R128: the column and row of the tile of a covered pixel within the pane, after the mirror step. -/
def localTile (p : Pane) (q : LogicalPixel) : Nat × Nat :=
  (if p.mirror then p.w - 1 - (q.x / 40 - p.u0) else q.x / 40 - p.u0, q.y / 40 - p.v0)

/-- R54, R128: the column and row of a pixel within its tile, after the mirror step. -/
def localOffset (p : Pane) (q : LogicalPixel) : Nat × Nat := (if p.mirror then 39 - q.x % 40 else q.x % 40, q.y % 40)

/-- R52: the tile of a covered pixel lies within the pane. -/
theorem localTile_inside {p : Pane} {q : LogicalPixel} (h : paneCovers p (q.x / 40) (q.y / 40) = true) :
    (localTile p q).1 < p.w ∧ (localTile p q).2 < p.h := by
  simp only [paneCovers, Bool.and_eq_true, decide_eq_true_eq] at h
  unfold localTile
  dsimp only
  split <;> omega

theorem localOffset_lt (p : Pane) (q : LogicalPixel) : (localOffset p q).1 < 40 ∧ (localOffset p q).2 < 40 := by
  unfold localOffset
  dsimp only
  split <;> omega

/-- R54: the mirror step acts on the tile's column and on the column within the tile. -/
theorem paneLocal_eq {p : Pane} {q : LogicalPixel} (h : paneCovers p (q.x / 40) (q.y / 40) = true) :
    paneLocal p q = ((localTile p q).1 * 40 + (localOffset p q).1, (localTile p q).2 * 40 + (localOffset p q).2) := by
  simp only [paneCovers, Bool.and_eq_true, decide_eq_true_eq] at h
  unfold paneLocal localTile localOffset
  cases p.mirror
  · rfl
  · simp only [if_true, Prod.mk.injEq, and_true]
    omega

/-- R54 to R56, R128: a pixel goes where its tile goes, at the place its offset takes within the tile. -/
theorem placePixel_eq {p : Pane} {q : LogicalPixel} (h : paneCovers p (q.x / 40) (q.y / 40) = true) :
    placePixel p q =
      { x := 40 * (placeTile p (q.x / 40) (q.y / 40)).col + (placeOffset p (q.x % 40) (q.y % 40)).1
        y := 40 * (placeTile p (q.x / 40) (q.y / 40)).row + (placeOffset p (q.x % 40) (q.y % 40)).2 } := by
  obtain ⟨hi, hj⟩ := localTile_inside h
  obtain ⟨ha, hb⟩ := localOffset_lt p q
  unfold placePixel
  rw [paneLocal_eq h]
  unfold localTile at *
  unfold localOffset at *
  unfold turnPixel placeTile placeOffset
  dsimp only at *
  cases p.orient <;> simp only [PanelPixel.mk.injEq] <;> omega

theorem placeOffset_lt {p : Pane} {a b : Nat} (ha : a < 40) (hb : b < 40) :
    (placeOffset p a b).1 < 40 ∧ (placeOffset p a b).2 < 40 := by
  unfold placeOffset
  cases p.orient <;> dsimp only <;> split <;> omega

/-- R54 to R56: a covered pixel falls in the pane's physical rectangle. -/
theorem placePixel_owned {p : Pane} {q : LogicalPixel} (h : paneCovers p (q.x / 40) (q.y / 40) = true) :
    paneOwns p (tileOfPixel (placePixel p q)) = true := by
  have covers : coversPixel p.surface p q = true := by simp [coversPixel, h]
  obtain ⟨lx, ly⟩ := paneLocal_inside covers
  obtain ⟨tx, ty⟩ := turnPixel_inside lx ly
  simp only [paneOwns, Bool.and_eq_true, decide_eq_true_eq]
  unfold tileOfPixel placePixel
  dsimp only
  omega

/-- The tiles of the panel hold its 3240 columns and 2400 rows of pixels. -/
theorem onPanel_tileOfPixel {q : PanelPixel} : OnPanel (tileOfPixel q) ↔ q.x ≤ 3239 ∧ q.y ≤ 2399 := by
  unfold OnPanel tileOfPixel
  dsimp only
  omega

/-- Settles O45: `placePixel_eq`, and for a pane within the panel `placePixel_owned` and `placePixel_onPanel`. -/
theorem pixelsArePlacedWithTheirTiles : Obligations.PixelsArePlacedWithTheirTiles := by
  intro p q b h
  obtain ⟨col, row⟩ := placeOffset_lt (p := p) (Nat.mod_lt q.x (by omega)) (Nat.mod_lt q.y (by omega))
  refine ⟨placePixel_eq h, col, row, fun inside => ?_⟩
  have covers : coversPixel p.surface p q = true := by simp [coversPixel, h]
  obtain ⟨hx, hy⟩ := onPanel_tileOfPixel.1 (placePixel_onPanel inside covers)
  refine ⟨placePixel_owned h, hx, hy, rfl, ?_⟩
  unfold pixelAddress
  omega

end Sys2Proof.Machine
end

section
/-!
O46, the pixels: which request pixel takes part for which pane, and which are dropped (R47 to R49, R52, R53, R57).
-/
namespace Sys2Proof.Machine

/-- R1, R49: request pixel `i` is an unmasked pixel of a WRITE, with word `w`. -/
def WritesWord (r : Request) (i : Nat) (w : Pixel) : Prop :=
  ∃ px, r.body = .write px ∧ px[i]? = some { word := w, mask := .write }

/-- R47, R48: request pixel `i` lies at pixel `q` of surface `k` as the table gives the surface. -/
def LiesAt (tb : Option Table) (k : Nat) (r : Request) (i : Nat) (q : LogicalPixel) : Prop :=
  ∃ t, tb = some t ∧ q.x = pixelIndex k r i % (tableSurface t k).pitch ∧
    q.y = pixelIndex k r i / (tableSurface t k).pitch ∧
    q.x < (tableSurface t k).width ∧ q.y < (tableSurface t k).height

/-- R52: the pane shows surface `k` and covers the pixel. -/
def Covers (k : Nat) (p : Pane) (q : LogicalPixel) : Prop :=
  p.surface = k ∧ paneCovers p (q.x / 40) (q.y / 40) = true

/-- R49, R52, R53, R57: request pixel `i` takes part for pane `j`, which places it at `at_`. -/
def TakesPart (tb : Option Table) (k : Nat) (rc : RecordCopy) (r : Request) (i j : Nat) (at_ : PanelPixel) : Prop :=
  ∃ q p, LiesAt tb k r i q ∧ rc.panes[j]? = some p ∧ Covers k p q ∧ at_ = placePixel p q ∧
    ((∃ w, WritesWord r i w) ∨
      (∃ n, r.body = .read n ∧ i < n) ∧ ∀ m x, m < j → rc.panes[m]? = some x → ¬ Covers k x q)

theorem coversPixel_iff {k : Nat} {p : Pane} {q : LogicalPixel} : coversPixel k p q = true ↔ Covers k p q := by
  simp [coversPixel, Covers]

theorem writtenPixel_some {r : Request} {i : Nat} {w : Pixel} : writtenPixel r i = some w ↔ WritesWord r i w := by
  unfold writtenPixel WritesWord
  cases r.body with
  | read n => simp
  | write px =>
    cases h : px[i]? with
    | none => simp [h]
    | some p =>
      obtain ⟨word, mask⟩ := p
      cases mask <;> simp [h]

theorem WritesWord.write {r : Request} {i : Nat} {w : Pixel} (h : WritesWord r i w) :
    bodyKind r.body = .write ∧ i < bodyCount r.body := by
  obtain ⟨px, body, hi⟩ := h
  rw [body]
  exact ⟨rfl, (List.getElem?_eq_some_iff.1 hi).1⟩

/-- R45, R47, R48: the logical pixel under the snapshot is the one the table gives. An absent surface has width 0. -/
theorem logicalPixel_some {tb : Option Table} {k : Nat} {r : Request} {i : Nat} {q : LogicalPixel} :
    logicalPixel (snapshotOf tb k) (pixelIndex k r i) = some q ↔ LiesAt tb k r i q := by
  obtain ⟨x, y⟩ := q
  unfold LiesAt snapshotOf
  cases tb with
  | none => simp [logicalPixel]
  | some t =>
    by_cases absent : (tableSurface t k).width = 0
    · simp [absent, logicalPixel]
    · simp only [absent, if_false, logicalPixel, Option.some.injEq, exists_eq_left']
      constructor
      · intro h
        split at h
        · cases h
          exact ⟨rfl, rfl, ‹_›⟩
        · cases h
      · rintro ⟨rfl, rfl, inside⟩
        rw [if_pos inside]

theorem mem_coveringPanes {k j : Nat} {rc : RecordCopy} {q : LogicalPixel} :
    j ∈ coveringPanes k rc q ↔ ∃ p, rc.panes[j]? = some p ∧ Covers k p q := by
  simp [coveringPanes, List.mem_zipIdx_iff_getElem?, coversPixel_iff]

/-- R53: the first pane that covers a pixel. -/
theorem head?_coveringPanes {k j : Nat} {rc : RecordCopy} {q : LogicalPixel} :
    (coveringPanes k rc q).head? = some j ↔
      ∃ p, rc.panes[j]? = some p ∧ Covers k p q ∧ ∀ m x, m < j → rc.panes[m]? = some x → ¬ Covers k x q := by
  rw [coveringPanes, List.head?_map, List.head?_filter, Option.map_eq_some_iff]
  simp only [List.find?_eq_some_iff_getElem, coversPixel_iff, List.getElem_zipIdx, List.length_zipIdx, zero_add,
    Bool.not_eq_true', ← Bool.not_eq_true]
  constructor
  · rintro ⟨⟨p, _⟩, ⟨covers, m, hm, same, earliest⟩, rfl⟩
    cases same
    refine ⟨_, List.getElem?_eq_getElem hm, covers, fun n x hn hx => ?_⟩
    obtain ⟨-, rfl⟩ := List.getElem?_eq_some_iff.1 hx
    exact earliest n hn
  · rintro ⟨p, hp, covers, earliest⟩
    obtain ⟨hj, rfl⟩ := List.getElem?_eq_some_iff.1 hp
    exact ⟨_, ⟨covers, j, hj, rfl, fun m hm => earliest m _ hm (List.getElem?_eq_getElem (hm.trans hj))⟩, rfl⟩

/-- R49, R53, R57: the model's placement of a request pixel for a pane, and the word it goes out with. -/
theorem placedFor_some {tb : Option Table} {k : Nat} {rc : RecordCopy} {r : Request} {i j : Nat} {x : Placed}
    (h : placedFor k (snapshotOf tb k) rc r j i = some x) (hi : i < bodyCount r.body) :
    TakesPart tb k rc r i j x.pos ∧ ∀ w, WritesWord r i w → x.word = creaseWrite (gainCode rc x.pos.x) w := by
  unfold placedFor at h
  split at h
  · rename_i q p hq hp
    have lies := logicalPixel_some.1 hq
    dsimp only at h
    split at h
    · split at h
      · rename_i w hw
        have written := writtenPixel_some.1 hw
        split at h
        · rename_i covers
          cases h
          refine ⟨⟨q, p, lies, hp, coversPixel_iff.1 covers, rfl, .inl ⟨w, written⟩⟩, fun v hv => ?_⟩
          rw [← writtenPixel_some, hw] at hv
          cases hv
          rfl
        · cases h
      · cases h
    · rename_i n body
      split at h
      · rename_i first
        cases h
        obtain ⟨p', hp', covers, earliest⟩ := head?_coveringPanes.1 first
        rw [hp] at hp'
        cases hp'
        rw [body] at hi
        refine ⟨⟨q, p, lies, hp, covers, rfl, .inr ⟨⟨n, body, hi⟩, earliest⟩⟩, ?_⟩
        rintro w ⟨px, write, -⟩
        rw [body] at write
        cases write
      · cases h
  · cases h

/-- A request pixel that takes part is one of the request's, and the model places it so. -/
theorem TakesPart.placed {tb : Option Table} {k : Nat} {rc : RecordCopy} {r : Request} {i j : Nat} {at_ : PanelPixel}
    (h : TakesPart tb k rc r i j at_) :
    i < bodyCount r.body ∧ ∃ x, placedFor k (snapshotOf tb k) rc r j i = some x ∧ x.pos = at_ := by
  obtain ⟨q, p, lies, hp, covers, rfl, ⟨w, written⟩ | ⟨⟨n, body, hi⟩, earliest⟩⟩ := h
  · refine ⟨written.write.2, ?_⟩
    have hw := writtenPixel_some.2 written
    obtain ⟨px, body, -⟩ := written
    simp [placedFor, logicalPixel_some.2 lies, hp, body, hw, coversPixel_iff.2 covers]
  · have first := head?_coveringPanes.2 ⟨p, hp, covers, earliest⟩
    refine ⟨by rwa [body], ?_⟩
    simp [placedFor, logicalPixel_some.2 lies, hp, body, first]

theorem LiesAt.unique {tb : Option Table} {k : Nat} {r : Request} {i : Nat} {q q' : LogicalPixel}
    (h : LiesAt tb k r i q) (h' : LiesAt tb k r i q') : q' = q := by
  rw [← logicalPixel_some] at h h'
  exact Option.some.inj (h'.symm.trans h)

/-- R53: a pixel of a READ takes part for the first pane that covers it. -/
theorem TakesPart.read_first {tb : Option Table} {k : Nat} {rc : RecordCopy} {r : Request} {i j n : Nat}
    {at_ : PanelPixel} {q : LogicalPixel} (hr : r.body = .read n) (hq : LiesAt tb k r i q)
    (h : TakesPart tb k rc r i j at_) : (coveringPanes k rc q).head? = some j := by
  obtain ⟨q', p, lies, hp, covers, -, ⟨w, px, body, -⟩ | ⟨-, earliest⟩⟩ := h
  · rw [hr] at body
    cases body
  · cases hq.unique lies
    exact head?_coveringPanes.2 ⟨p, hp, covers, earliest⟩

theorem TakesPart.read_unique {tb : Option Table} {k : Nat} {rc : RecordCopy} {r : Request} {i j j' n : Nat}
    {at_ at' : PanelPixel} (hr : r.body = .read n) (h : TakesPart tb k rc r i j at_) (h' : TakesPart tb k rc r i j' at') :
    j' = j := by
  obtain ⟨q, -, lies, -⟩ := id h
  exact Option.some.inj ((h'.read_first hr lies).symm.trans (h.read_first hr lies))

/-- A pane places a request pixel at one place. -/
theorem TakesPart.unique {tb : Option Table} {k : Nat} {rc : RecordCopy} {r : Request} {i j : Nat} {at_ at' : PanelPixel}
    (h : TakesPart tb k rc r i j at_) (h' : TakesPart tb k rc r i j at') : at' = at_ := by
  obtain ⟨q, p, lies, hp, -, rfl, -⟩ := h
  obtain ⟨q', p', lies', hp', -, rfl, -⟩ := h'
  cases lies.unique lies'
  cases hp.symm.trans hp'
  rfl

/-- R49: the model's dropped pixels are the unmasked ones that no pane takes. -/
theorem pixelDropped_iff {tb : Option Table} {k : Nat} {rc : RecordCopy} {r : Request} {i : Nat} :
    pixelDropped k (snapshotOf tb k) rc r i = true ↔
      (∃ w, WritesWord r i w) ∧ ∀ j at_, ¬ TakesPart tb k rc r i j at_ := by
  simp only [pixelDropped, Bool.and_eq_true, Option.isSome_iff_exists, writtenPixel_some]
  refine and_congr_right fun ⟨w, written⟩ => ?_
  cases hq : logicalPixel (snapshotOf tb k) (pixelIndex k r i) with
  | none =>
    refine iff_of_true rfl ?_
    rintro j at_ ⟨q, p, lies, -⟩
    rw [logicalPixel_some.2 lies] at hq
    cases hq
  | some q =>
    have lies := logicalPixel_some.1 hq
    simp only [List.isEmpty_iff, List.eq_nil_iff_forall_not_mem, mem_coveringPanes]
    constructor
    · rintro none j at_ ⟨q', p, lies', hp, covers, -⟩
      cases lies.unique lies'
      exact none j ⟨p, hp, covers⟩
    · rintro none j ⟨p, hp, covers⟩
      exact none j _ ⟨q, p, lies, hp, covers, rfl, .inl ⟨w, written⟩⟩

end Sys2Proof.Machine
end

section
/-!
O46, the runs: the pixels of a pane's runs, their places in the panel image, and the order of all runs (R58, R60, R61).
-/
namespace Sys2Proof.Machine

/-! ## The runs of a pane and the pixels that take part (R58) -/

section
variable {k : Nat} {snap : Option Snapshot} {rc : RecordCopy} {r : Request} {j : Nat} {run run' : Run}

theorem mem_takingPart_range {f : Nat → Option Placed} {n i : Nat} {q : Placed} :
    (q, i) ∈ takingPart ((List.range n).map f) 0 ↔ i < n ∧ f i = some q := by
  simp only [takingPart, List.mem_filterMap, Option.map_eq_some_iff, Prod.exists, List.mem_zipIdx_iff_getElem?]
  constructor
  · rintro ⟨o, m, hm, q', rfl, same⟩
    cases same
    have inside := (List.getElem?_eq_some_iff.1 hm).1
    rw [List.length_map, List.length_range] at inside
    exact ⟨inside, by simpa [inside] using hm⟩
  · rintro ⟨hi, hq⟩
    exact ⟨some q, i, by simp [hi, hq], q, rfl, rfl⟩

/-- R58: the runs of a pane hold each pixel that takes part for it, at its request pixel, and no other. -/
theorem paneRuns_pixels {i : Nat} {q : Placed} :
    (∃ run ∈ paneRuns k snap rc r j, ∃ m, i = run.first + m ∧ run.pixels.reverse[m]? = some q) ↔
      i < bodyCount r.body ∧ placedFor k snap rc r j i = some q := by
  have all := gatherRuns_pixels ((List.range (bodyCount r.body)).map (placedFor k snap rc r j)) 0 none (by simp)
  rw [Option.toList_none, List.flatMap_nil, List.nil_append] at all
  rw [← mem_takingPart_range, ← all, List.mem_flatMap]
  refine exists_congr fun run => and_congr_right fun _ => ?_
  rw [runPixels, List.mem_zipIdx_iff_le_and_getElem?_sub]
  constructor
  · rintro ⟨m, rfl, hm⟩
    exact ⟨Nat.le_add_right .., by simpa using hm⟩
  · rintro ⟨later, hm⟩
    exact ⟨i - run.first, (Nat.add_sub_of_le later).symm, hm⟩

theorem paneRuns_right (h : run ∈ paneRuns k snap rc r j) : RunRight run :=
  gatherRuns_right _ 0 none (by simp) run h

theorem RunRight.length_pos (h : RunRight run) : 0 < run.pixels.length := List.length_pos_iff.2 h.nonempty

/-- R58: the runs of a pane are apart, in the order of the request, and each is as long as it can be. -/
theorem paneRuns_pairwise : (paneRuns k snap rc r j).Pairwise fun run run' =>
    run.first + run.pixels.length ≤ run'.first ∧
      (run.first + run.pixels.length = run'.first → ∀ q, run'.pixels.getLast? = some q → extendRun run q = none) :=
  gatherRuns_longest _ 0 none (by simp)

/-- R58: of two runs of a pane the one that begins later begins after the other's end, and where nothing is between them
its first pixel cannot join the other. -/
theorem paneRuns_apart (h : run ∈ paneRuns k snap rc r j) (h' : run' ∈ paneRuns k snap rc r j)
    (before : run.first < run'.first) :
    run.first + run.pixels.length ≤ run'.first ∧
      (run.first + run.pixels.length = run'.first →
        ∀ q, run'.pixels.getLast? = some q → extendRun run q = none) := by
  obtain ⟨a, ha, rfl⟩ := List.getElem_of_mem h
  obtain ⟨c, hc, rfl⟩ := List.getElem_of_mem h'
  rcases lt_trichotomy a c with less | rfl | more
  · exact List.pairwise_iff_getElem.1 paneRuns_pairwise a c ha hc less
  · exact absurd before (lt_irrefl _)
  · have reverse := (List.pairwise_iff_getElem.1 paneRuns_pairwise c a hc ha more).1
    exact absurd ((Nat.le_add_right _ _).trans reverse) (not_le.2 before)

end

/-! ## The place of a run's pixels in the panel image (R56, R58, R60) -/

theorem stepDirection_some {a b : PanelPixel} {d : Bool} :
    stepDirection a b = some d ↔ b.y = a.y ∧ if d then b.x + 1 = a.x else b.x = a.x + 1 := by
  unfold stepDirection
  constructor
  · intro h
    split at h
    · cases h
    · have row : b.y = a.y := not_not.1 ‹_›
      split at h
      · cases h
        exact ⟨row, ‹_›⟩
      · split at h
        · cases h
          exact ⟨row, ‹_›⟩
        · cases h
  · rintro ⟨row, column⟩
    cases d with
    | false =>
      have right : b.x = a.x + 1 := column
      rw [if_neg (not_not.2 row), if_pos right]
    | true =>
      have left : b.x + 1 = a.x := column
      rw [if_neg (not_not.2 row), if_neg (by omega), if_pos left]

/-- R60: the pixels of a run in the order of their addresses. -/
def ascendingPixels (run : Run) : List Placed :=
  if run.descending == some true then run.pixels else run.pixels.reverse

/-- R60: the position in a fragment of its request pixel with offset `n`, and the offset of its position `n`. -/
def mirrored (f : Fragment) (n : Nat) : Nat := if f.descending then f.count - 1 - n else n

theorem mirrored_lt {f : Fragment} {n : Nat} (h : n < f.count) : mirrored f n < f.count := by
  unfold mirrored
  split <;> omega

theorem mirrored_mirrored {f : Fragment} {n : Nat} (h : n < f.count) : mirrored f (mirrored f n) = n := by
  unfold mirrored
  split <;> omega

section
variable {kind : Kind} {b : Bank} {j n : Nat} {run : Run} {q : Placed}

@[simp] theorem fragmentOfRun_count : (fragmentOfRun kind b j run).count = run.pixels.length := rfl
@[simp] theorem fragmentOfRun_first : (fragmentOfRun kind b j run).first = run.first := rfl
@[simp] theorem fragmentOfRun_pane : (fragmentOfRun kind b j run).pane = j := rfl

@[simp] theorem length_ascendingPixels : (ascendingPixels run).length = run.pixels.length := by
  unfold ascendingPixels
  split <;> simp

/-- R60: the pixel at a position is the one at the request offset mirrored from it. -/
theorem ascendingPixels_mirrored (h : n < run.pixels.length) :
    (ascendingPixels run)[mirrored (fragmentOfRun kind b j run) n]? = run.pixels.reverse[n]? := by
  show (if run.descending == some true then run.pixels else run.pixels.reverse)[
    if run.descending == some true then run.pixels.length - 1 - n else n]? = _
  split
  · rw [List.getElem?_reverse h]
  · rfl

/-- R58, R60: the next position is the next column of the same row. -/
theorem RunRight.ascending_succ (h : RunRight run) {a c : Placed} (ha : (ascendingPixels run)[n]? = some a)
    (hc : (ascendingPixels run)[n + 1]? = some c) : c.pos.y = a.pos.y ∧ c.pos.x = a.pos.x + 1 := by
  have inside : n + 1 < run.pixels.length := by simpa using (List.getElem?_eq_some_iff.1 hc).1
  unfold ascendingPixels at ha hc
  cases hd : run.descending with
  | none => have := h.direction.1 hd; omega
  | some d =>
    cases d with
    | false =>
      rw [hd] at ha hc
      have step := h.follows n a c ha hc
      rw [hd, stepDirection_some] at step
      exact step
    | true =>
      rw [hd] at ha hc
      have step := h.follows (run.pixels.length - 1 - (n + 1)) c a
        (by rw [List.getElem?_reverse (by omega), ← hc]; congr 1; omega)
        (by rw [List.getElem?_reverse (by omega), ← ha]; congr 1; omega)
      rw [hd, stepDirection_some] at step
      exact ⟨step.1.symm, step.2.symm⟩

/-- R58, R60: the positions of a run are columns of one row, in order. -/
theorem RunRight.ascending_pos (h : RunRight run) {a : Placed} (ha : (ascendingPixels run)[0]? = some a) :
    ∀ {n : Nat} {q : Placed}, (ascendingPixels run)[n]? = some q → q.pos.y = a.pos.y ∧ q.pos.x = a.pos.x + n
  | 0, q, hq => by
    rw [ha] at hq
    cases hq
    exact ⟨rfl, rfl⟩
  | n + 1, q, hq => by
    have inside := (List.getElem?_eq_some_iff.1 hq).1
    obtain ⟨before, hb⟩ : ∃ x, (ascendingPixels run)[n]? = some x := ⟨_, List.getElem?_eq_getElem (by omega)⟩
    have step := h.ascending_succ hb hq
    have start := h.ascending_pos ha hb
    omega

/-- R60: the address of the pixel at a position. -/
theorem RunRight.fragment_address (h : RunRight run) (hq : (ascendingPixels run)[n]? = some q) :
    (fragmentOfRun kind b j run).address + 4 * n = pixelAddress b q.pos := by
  obtain ⟨a, ha⟩ : ∃ a, (ascendingPixels run)[0]? = some a :=
    ⟨_, List.getElem?_eq_getElem (by simpa using h.length_pos)⟩
  have lowest : (fragmentOfRun kind b j run).address = pixelAddress b a.pos := by
    show ((ascendingPixels run).head?.map fun q => pixelAddress b q.pos).getD 0 = _
    rw [List.head?_eq_getElem?, ha]
    rfl
  have place := h.ascending_pos ha hq
  rw [lowest, pixelAddress, pixelAddress, place.1, place.2]
  omega

/-- R60: the address of the request pixel at an offset. -/
theorem RunRight.pixel_address (h : RunRight run) (hq : run.pixels.reverse[n]? = some q) :
    (fragmentOfRun kind b j run).address + 4 * mirrored (fragmentOfRun kind b j run) n = pixelAddress b q.pos := by
  have inside : n < run.pixels.length := by simpa using (List.getElem?_eq_some_iff.1 hq).1
  exact h.fragment_address ((ascendingPixels_mirrored inside).trans hq)

/-- R60: the words of a WRITE's fragment, each at its pixel's position. -/
theorem fragmentOfRun_data :
    (fragmentOfRun kind b j run).data = if kind = .write then (ascendingPixels run).map (·.word) else [] := rfl

/-- R58: a run whose second pixel sets the direction descending has two. -/
theorem RunRight.two_of_direction (h : RunRight run) {d : Bool} (hd : run.descending = some d) :
    2 ≤ run.pixels.length := by
  have set : run.descending ≠ none := by rw [hd]; nofun
  have := h.length_pos
  have := mt h.direction.2 set
  omega

/-- Address of the first request pixel of a fragment. -/
def startAddress (f : Fragment) : Nat := f.address + (if f.descending then 4 * (f.count - 1) else 0)

/-- Address of the last request pixel of a fragment. -/
def endAddress (f : Fragment) : Nat := f.address + (if f.descending then 0 else 4 * (f.count - 1))

theorem startAddress_eq (f : Fragment) : startAddress f = f.address + 4 * mirrored f 0 := by
  unfold startAddress mirrored
  split <;> rfl

theorem endAddress_eq (f : Fragment) : endAddress f = f.address + 4 * mirrored f (f.count - 1) := by
  unfold endAddress mirrored
  split
  · rw [Nat.sub_self]
  · rfl

theorem RunRight.start_pixel (h : RunRight run) (hq : run.pixels.reverse[0]? = some q) :
    startAddress (fragmentOfRun kind b j run) = pixelAddress b q.pos := by
  rw [startAddress_eq, h.pixel_address hq]

theorem RunRight.end_pixel (h : RunRight run) (hq : run.pixels.reverse[run.pixels.length - 1]? = some q) :
    endAddress (fragmentOfRun kind b j run) = pixelAddress b q.pos := by
  rw [endAddress_eq, fragmentOfRun_count, h.pixel_address hq]

end

/-- R56: row of a pixel of the panel image. -/
theorem pixelAddress_row {b : Bank} {q : PanelPixel} (hx : q.x ≤ 3239) :
    (pixelAddress b q - bankBase b) / 12960 = q.y := by
  unfold pixelAddress
  omega

/-- R56, R62: tile of a pixel of the panel image. -/
theorem pixelAddress_tile {b : Bank} {q : PanelPixel} (hx : q.x ≤ 3239) :
    ({ col := (pixelAddress b q - bankBase b) / 4 % 3240 / 40, row := (pixelAddress b q - bankBase b) / 4 / 3240 / 40 } :
      Tile) = tileOfPixel q := by
  unfold pixelAddress tileOfPixel
  simp only [Tile.mk.injEq]
  omega

/-! ## The order of all runs (R61) -/

section
variable {k : Nat} {snap : Option Snapshot} {rc : RecordCopy} {r : Request} {j : Nat} {run : Run}

/-- R61: the runs that begin at request pixel `i`, in pane order. -/
def runsAt (k : Nat) (snap : Option Snapshot) (rc : RecordCopy) (r : Request) (i : Nat) : List (Nat × Run) :=
  ((List.range rc.panes.length).map fun j => (j, paneRuns k snap rc r j)).flatMap fun jr =>
    (jr.2.filter fun run => run.first == i).map fun run => (jr.1, run)

theorem orderedRuns_eq : orderedRuns k snap rc r = (List.range (bodyCount r.body)).flatMap (runsAt k snap rc r) := rfl

theorem mem_runsAt {i : Nat} :
    (j, run) ∈ runsAt k snap rc r i ↔ j < rc.panes.length ∧ run ∈ paneRuns k snap rc r j ∧ run.first = i := by
  simp only [runsAt, List.flatMap_map, List.mem_flatMap, List.mem_range, List.mem_map, List.mem_filter, beq_iff_eq,
    Prod.mk.injEq]
  constructor
  · rintro ⟨_, hj, _, ⟨hr, hi⟩, rfl, rfl⟩
    exact ⟨hj, hr, hi⟩
  · rintro ⟨hj, hr, hi⟩
    exact ⟨j, hj, run, ⟨hr, hi⟩, rfl, rfl⟩

/-- R61: the runs in issue order are the runs of the panes. -/
theorem mem_orderedRuns : (j, run) ∈ orderedRuns k snap rc r ↔ run ∈ paneRuns k snap rc r j := by
  simp only [orderedRuns_eq, List.mem_flatMap, List.mem_range, mem_runsAt]
  constructor
  · rintro ⟨i, -, -, hr, -⟩
    exact hr
  · intro hr
    obtain ⟨q, hq⟩ : ∃ q, run.pixels.reverse[0]? = some q :=
      ⟨_, List.getElem?_eq_getElem (by simpa using (paneRuns_right hr).length_pos)⟩
    obtain ⟨counted, placed⟩ := paneRuns_pixels.1 ⟨run, hr, 0, rfl, hq⟩
    refine ⟨run.first, counted, ?_, hr, rfl⟩
    by_contra none
    rw [placedFor, List.getElem?_eq_none (by omega)] at placed
    cases hl : logicalPixel snap (pixelIndex k r run.first) <;> simp [hl] at placed

/-- R58, R61: no pane has two runs that begin at one request pixel. -/
theorem runsAt_sorted (i : Nat) : (runsAt k snap rc r i).Pairwise fun a c => a.1 < c.1 := by
  rw [runsAt, List.pairwise_flatMap, List.pairwise_map]
  constructor
  · intro jr hjr
    obtain ⟨j, -, rfl⟩ := List.mem_map.1 hjr
    rw [List.pairwise_map]
    refine (paneRuns_pairwise.filter _).imp_of_mem fun {a c} ha hc before => ?_
    obtain ⟨ha, ai⟩ := List.mem_filter.1 ha
    obtain ⟨-, ci⟩ := List.mem_filter.1 hc
    have := (paneRuns_right ha).length_pos
    have := before.1
    rw [beq_iff_eq] at ai ci
    omega
  · refine List.pairwise_lt_range.imp fun {j j'} less a ha c hc => ?_
    obtain ⟨-, -, rfl⟩ := List.mem_map.1 ha
    obtain ⟨-, -, rfl⟩ := List.mem_map.1 hc
    exact less

/-- R61: by first request pixel, and of those in pane order. -/
theorem orderedRuns_sorted : (orderedRuns k snap rc r).Pairwise fun a c =>
    a.2.first < c.2.first ∨ a.2.first = c.2.first ∧ a.1 < c.1 := by
  rw [orderedRuns_eq, List.pairwise_flatMap]
  constructor
  · intro i _
    refine (runsAt_sorted i).imp_of_mem fun {a c} ha hc less => .inr ⟨?_, less⟩
    exact (mem_runsAt.1 ha).2.2.trans (mem_runsAt.1 hc).2.2.symm
  · refine List.pairwise_lt_range.imp fun {i i'} less a ha c hc => .inl ?_
    rwa [(mem_runsAt.1 ha).2.2, (mem_runsAt.1 hc).2.2]

end
end Sys2Proof.Machine
end

section
/-!
O46: what a context holds: its fragments, tiles, pixel map and dropped pixels (R45, R49, R58 to R62, R64).
-/
namespace Sys2Proof.Machine

/-- R57, R60: position `n` of fragment `f` carries request pixel `i`, placed at `at_`: it has the pixel's address and, for
a WRITE, the pixel's word with the gain of its column. -/
def Carries (rc : RecordCopy) (b : Bank) (r : Request) (f : Fragment) (n i : Nat) (at_ : PanelPixel) : Prop :=
  n < f.count ∧ i = f.first + mirrored f n ∧ f.address + 4 * n = pixelAddress b at_ ∧
    ∀ w, WritesWord r i w → f.data[n]? = some (creaseWrite (gainCode rc at_.x) w)

/-- R45, R61: the fragments of a request's context. -/
def requestFragments (tb : Option Table) (k : Nat) (rc : RecordCopy) (b : Bank) (r : Request) : List Fragment :=
  (orderedRuns k (snapshotOf tb k) rc r).map fun jr => fragmentOfRun (bodyKind r.body) b jr.1 jr.2

section
variable {tb : Option Table} {k : Nat} {rc : RecordCopy} {b : Bank} {r : Request} {j n i : Nat} {run : Run}
  {q : Placed} {at_ : PanelPixel} {f g : Fragment}

theorem makeContext_fragments {p : Port} {gen : BitVec 16} :
    (makeContext p gen rc b (snapshotOf tb k) k r).fragments = requestFragments tb k rc b r := rfl

theorem mem_requestFragments : f ∈ requestFragments tb k rc b r ↔
    ∃ j run, run ∈ paneRuns k (snapshotOf tb k) rc r j ∧ f = fragmentOfRun (bodyKind r.body) b j run := by
  simp only [requestFragments, List.mem_map, Prod.exists, mem_orderedRuns, eq_comm (b := f)]

/-! ## Fragments and the pixels that take part (R57, R58, R60) -/

/-- A pixel of a run takes part for the run's pane, and the run's fragment carries it at the mirrored position. -/
theorem run_carries (hr : run ∈ paneRuns k (snapshotOf tb k) rc r j) (hq : run.pixels.reverse[n]? = some q) :
    TakesPart tb k rc r (run.first + n) j q.pos ∧
      Carries rc b r (fragmentOfRun (bodyKind r.body) b j run)
        (mirrored (fragmentOfRun (bodyKind r.body) b j run) n) (run.first + n) q.pos := by
  obtain ⟨counted, placed⟩ := paneRuns_pixels.1 ⟨run, hr, n, rfl, hq⟩
  obtain ⟨takes, word⟩ := placedFor_some placed counted
  have inside : n < run.pixels.length := by simpa using (List.getElem?_eq_some_iff.1 hq).1
  have position := (ascendingPixels_mirrored (kind := bodyKind r.body) (b := b) (j := j) inside).trans hq
  refine ⟨takes, mirrored_lt inside, ?_, (paneRuns_right hr).pixel_address hq, fun w hw => ?_⟩
  · rw [mirrored_mirrored inside, fragmentOfRun_first]
  · rw [fragmentOfRun_data, if_pos hw.write.1, List.getElem?_map, position, ← word w hw]
    rfl

/-- R58: every position of a fragment carries a pixel that takes part for its pane. -/
theorem fragment_position (hf : f ∈ requestFragments tb k rc b r) (hn : n < f.count) :
    ∃ i at_, TakesPart tb k rc r i f.pane at_ ∧ Carries rc b r f n i at_ := by
  obtain ⟨j, run, hr, rfl⟩ := mem_requestFragments.1 hf
  obtain ⟨q, hq⟩ : ∃ q, run.pixels.reverse[mirrored (fragmentOfRun (bodyKind r.body) b j run) n]? = some q :=
    ⟨_, List.getElem?_eq_getElem (by simpa using mirrored_lt hn)⟩
  obtain ⟨takes, carries⟩ := run_carries (b := b) hr hq
  rw [mirrored_mirrored hn] at carries
  exact ⟨_, _, takes, carries⟩

/-- R58: a pixel that takes part stands in a run of its pane. -/
theorem TakesPart.in_run (h : TakesPart tb k rc r i j at_) :
    ∃ run ∈ paneRuns k (snapshotOf tb k) rc r j, ∃ m q,
      i = run.first + m ∧ run.pixels.reverse[m]? = some q ∧ q.pos = at_ := by
  obtain ⟨counted, q, placed, pos⟩ := h.placed
  obtain ⟨run, hr, m, hm, hq⟩ := paneRuns_pixels.2 ⟨counted, placed⟩
  exact ⟨run, hr, m, q, hm, hq, pos⟩

/-- R58: every pixel that takes part for a pane stands in a fragment of the pane. -/
theorem TakesPart.carried (h : TakesPart tb k rc r i j at_) :
    ∃ f ∈ requestFragments tb k rc b r, f.pane = j ∧ ∃ n, Carries rc b r f n i at_ := by
  obtain ⟨run, hr, m, q, rfl, hq, rfl⟩ := h.in_run
  exact ⟨_, mem_requestFragments.2 ⟨j, run, hr, rfl⟩, rfl, _, (run_carries hr hq).2⟩

/-- R43, R56: what takes part lies on the panel. -/
theorem TakesPart.onPanel (hp : PanesRight rc.panes) (h : TakesPart tb k rc r i j at_) :
    at_.x ≤ 3239 ∧ at_.y ≤ 2399 := by
  obtain ⟨-, q, placed, rfl⟩ := h.placed
  exact onPanel_tileOfPixel.1 (placedFor_onPanel hp placed)

/-! ## The extent of a fragment (R58, R60) -/

/-- Row of the panel image of bank `b` that holds address `a`. -/
def rowAt (b : Bank) (a : Nat) : Nat := (a - bankBase b) / 12960

theorem run_pixel (hp : PanesRight rc.panes) (hr : run ∈ paneRuns k (snapshotOf tb k) rc r j)
    (hn : n < run.pixels.length) : ∃ q, run.pixels.reverse[n]? = some q ∧ q.pos.x ≤ 3239 ∧ q.pos.y ≤ 2399 := by
  obtain ⟨q, hq⟩ : ∃ q, run.pixels.reverse[n]? = some q := ⟨_, List.getElem?_eq_getElem (by simpa using hn)⟩
  exact ⟨q, hq, (run_carries (b := .bank0) hr hq).1.onPanel hp⟩

/-- R43, R58: the first and the last request pixel of a fragment lie in one row of the panel, at its two ends. -/
theorem fragment_ends (hp : PanesRight rc.panes) (hr : run ∈ paneRuns k (snapshotOf tb k) rc r j) :
    ∃ first last, run.pixels.reverse[0]? = some first ∧ run.pixels.reverse[run.pixels.length - 1]? = some last ∧
      first.pos.x ≤ 3239 ∧ last.pos.x ≤ 3239 ∧ first.pos.y = last.pos.y ∧
      startAddress (fragmentOfRun (bodyKind r.body) b j run) = pixelAddress b first.pos ∧
      endAddress (fragmentOfRun (bodyKind r.body) b j run) = pixelAddress b last.pos := by
  have right := paneRuns_right hr
  have last_lt : run.pixels.length - 1 < run.pixels.length := Nat.sub_lt right.length_pos Nat.one_pos
  obtain ⟨first, h0, x0, -⟩ := run_pixel hp hr right.length_pos
  obtain ⟨last, h1, x1, -⟩ := run_pixel hp hr last_lt
  obtain ⟨lowest, ha⟩ : ∃ a, (ascendingPixels run)[0]? = some a :=
    ⟨_, List.getElem?_eq_getElem (by simpa using right.length_pos)⟩
  have p0 := (ascendingPixels_mirrored (kind := bodyKind r.body) (b := b) (j := j) right.length_pos).trans h0
  have p1 := (ascendingPixels_mirrored (kind := bodyKind r.body) (b := b) (j := j) last_lt).trans h1
  exact ⟨first, last, h0, h1, x0, x1, (right.ascending_pos ha p0).1.trans (right.ascending_pos ha p1).1.symm,
    right.start_pixel h0, right.end_pixel h1⟩

/-- R43, R56: every position of a fragment has the address of a pixel of the panel. -/
theorem fragment_address_onPanel (hp : PanesRight rc.panes) (hf : f ∈ requestFragments tb k rc b r) (hn : n < f.count) :
    ∃ at_ : PanelPixel, at_.x ≤ 3239 ∧ at_.y ≤ 2399 ∧ f.address + 4 * n = pixelAddress b at_ := by
  obtain ⟨i, at_, takes, -, -, address, -⟩ := fragment_position hf hn
  exact ⟨at_, (takes.onPanel hp).1, (takes.onPanel hp).2, address⟩

/-- What of a fragment's extent R58 and R60 say: 1 to 64 pixels of one row of the panel image. -/
theorem fragment_extent (hp : PanesRight rc.panes) (hf : f ∈ requestFragments tb k rc b r) :
    1 ≤ f.count ∧ f.count ≤ 64 ∧ f.address % 4 = 0 ∧ bankBase b ≤ f.address ∧
      f.address + 4 * f.count ≤ bankBase b + 31104000 ∧ rowAt b (startAddress f) = rowAt b (endAddress f) ∧
      f.state = .notIssued ∧ (f.descending = true → 2 ≤ f.count) ∧
      f.data.length = if bodyKind r.body = .write then f.count else 0 := by
  obtain ⟨j, run, hr, same⟩ := mem_requestFragments.1 hf
  have right := paneRuns_right hr
  have count : f.count = run.pixels.length := by rw [same, fragmentOfRun_count]
  have nonempty : 1 ≤ f.count := count ▸ right.length_pos
  obtain ⟨low, -, -, lowest⟩ := fragment_address_onPanel hp hf nonempty
  obtain ⟨high, hx, hy, highest⟩ := fragment_address_onPanel hp hf (Nat.sub_lt nonempty Nat.one_pos)
  unfold pixelAddress at lowest highest
  refine ⟨nonempty, count ▸ right.few, ?_, by omega, by omega, ?_, by rw [same]; rfl, fun descending => ?_, ?_⟩
  · have base : bankBase b % 4 = 0 := by cases b <;> rfl
    omega
  · obtain ⟨first, last, -, -, x0, x1, row, start, finish⟩ := fragment_ends (b := b) hp hr
    rw [same, rowAt, rowAt, start, finish, pixelAddress_row x0, pixelAddress_row x1, row]
  · rw [same] at descending
    exact count ▸ right.two_of_direction (beq_iff_eq.1 descending)
  · rw [count, same, fragmentOfRun_data]
    split
    · rw [List.length_map, length_ascendingPixels]
    · rfl

/-- R58: a run with room that a pixel following its last one cannot join has the other direction. -/
theorem extendRun_none {last : Placed} {d : Bool} (hl : run.pixels.head? = some last) (room : run.pixels.length < 64)
    (hd : stepDirection last.pos q.pos = some d) (h : extendRun run q = none) : run.descending = some (!d) := by
  obtain ⟨rest, pixels⟩ := List.head?_eq_some_iff.1 hl
  unfold extendRun at h
  rw [pixels] at h room
  simp only [hd, room, true_and, ite_eq_right_iff, reduceCtorEq, imp_false, not_or] at h
  obtain ⟨set, other⟩ := h
  obtain ⟨e, he⟩ := Option.ne_none_iff_exists'.1 set
  rw [he, Option.some.injEq] at other
  rw [he, Bool.eq_not_of_ne other]

/-- R58: a fragment goes on as long as the next request pixel follows its last. -/
theorem fragment_longest (hp : PanesRight rc.panes) (hf : f ∈ requestFragments tb k rc b r)
    (hg : g ∈ requestFragments tb k rc b r) (pane : f.pane = g.pane) (next : f.first + f.count = g.first)
    (room : f.count < 64) (row : rowAt b (endAddress f) = rowAt b (startAddress g)) :
    (startAddress g = endAddress f + 4 → f.descending = true) ∧
      (startAddress g + 4 = endAddress f → f.descending = false ∧ 2 ≤ f.count) := by
  obtain ⟨j, run, hr, rfl⟩ := mem_requestFragments.1 hf
  obtain ⟨j', run', hr', rfl⟩ := mem_requestFragments.1 hg
  cases pane
  have right := paneRuns_right hr
  obtain ⟨-, last, -, hl, -, x1, -, -, finish⟩ := fragment_ends (b := b) hp hr
  obtain ⟨first, -, h0, -, x0, -, -, start, -⟩ := fragment_ends (b := b) hp hr'
  have before : run.first < run'.first := (Nat.lt_add_of_pos_right right.length_pos).trans_eq next
  have closed : extendRun run first = none :=
    (paneRuns_apart hr hr' before).2 next first (by rw [List.getLast?_eq_head?_reverse, List.head?_eq_getElem?, h0])
  have head : run.pixels.head? = some last := by
    rw [List.head?_eq_getElem?, ← hl, List.getElem?_reverse (Nat.sub_lt right.length_pos Nat.one_pos), Nat.sub_self]
  rw [rowAt, rowAt, start, finish, pixelAddress_row x1, pixelAddress_row x0] at row
  rw [start, finish, pixelAddress, pixelAddress]
  constructor
  · intro up
    have step : stepDirection last.pos first.pos = some false :=
      stepDirection_some.2 ⟨row.symm, show first.pos.x = last.pos.x + 1 by omega⟩
    exact beq_iff_eq.2 (extendRun_none head room step closed)
  · intro down
    have step : stepDirection last.pos first.pos = some true :=
      stepDirection_some.2 ⟨row.symm, show first.pos.x + 1 = last.pos.x by omega⟩
    have ascending := extendRun_none head room step closed
    exact ⟨by simp [fragmentOfRun, ascending], right.two_of_direction ascending⟩

/-- R61: the order of the fragments; those of one pane are apart. -/
theorem requestFragments_sorted : (requestFragments tb k rc b r).Pairwise fun f g =>
    f.first ≤ g.first ∧ (f.first = g.first → f.pane < g.pane) ∧ (f.pane = g.pane → f.first + f.count ≤ g.first) := by
  rw [requestFragments, List.pairwise_map]
  refine orderedRuns_sorted.imp_of_mem fun {a c} ha hc before => ?_
  obtain ⟨j, run⟩ := a
  obtain ⟨j', run'⟩ := c
  refine ⟨by dsimp at *; omega, by dsimp at *; omega, fun pane => ?_⟩
  cases pane
  refine (paneRuns_apart (mem_orderedRuns.1 ha) (mem_orderedRuns.1 hc) ?_).1
  dsimp only at before
  omega

/-! ## The tiles touched (R62) -/

theorem mem_dropRepeats {α : Type} [DecidableEq α] {a : α} : ∀ {l : List α}, a ∈ dropRepeats l ↔ a ∈ l
  | [] => Iff.rfl
  | c :: l => by
    simp only [dropRepeats, List.mem_cons, List.mem_filter, mem_dropRepeats (l := l), ne_eq, decide_not,
      Bool.not_eq_true', decide_eq_false_iff_not]
    tauto

theorem dropRepeats_nodup {α : Type} [DecidableEq α] : ∀ l : List α, (dropRepeats l).Nodup
  | [] => .nil
  | c :: l => List.nodup_cons.2 ⟨by simp, (dropRepeats_nodup l).filter _⟩

/-- R62: tile of bank `b` that holds address `a` of its panel image. -/
def tileAtAddress (b : Bank) (a : Nat) : BankTile :=
  { bank := b, tile := { col := (a - bankBase b) / 4 % 3240 / 40, row := (a - bankBase b) / 4 / 3240 / 40 } }

/-- Log 13: the tiles of a fragment's addresses in the order of its request pixels. -/
def fragmentTiles (b : Bank) (f : Fragment) : List BankTile :=
  (List.range f.count).map fun n => tileAtAddress b (f.address + 4 * mirrored f n)

theorem fragmentTiles_run (hp : PanesRight rc.panes) (hr : run ∈ paneRuns k (snapshotOf tb k) rc r j) :
    fragmentTiles b (fragmentOfRun (bodyKind r.body) b j run) =
      run.pixels.reverse.map fun q => { bank := b, tile := tileOfPixel q.pos } := by
  refine List.ext_getElem? fun n => ?_
  by_cases hn : n < run.pixels.length
  · obtain ⟨q, hq, x, -⟩ := run_pixel hp hr hn
    simp only [fragmentTiles, fragmentOfRun_count, List.getElem?_map, List.getElem?_range hn, hq, Option.map_some,
      (paneRuns_right hr).pixel_address hq, tileAtAddress, pixelAddress_tile x]
  · rw [List.getElem?_eq_none (by simpa [fragmentTiles] using hn), List.getElem?_eq_none (by simpa using hn)]

/-- R62: the tiles touched are those of the fragments' addresses. -/
theorem touchedTiles_eq (hp : PanesRight rc.panes) : touchedTiles b (orderedRuns k (snapshotOf tb k) rc r) =
    dropRepeats ((requestFragments tb k rc b r).flatMap (fragmentTiles b)) := by
  rw [requestFragments, List.flatMap_map, touchedTiles]
  congr 1
  exact List.flatMap_congr fun jr h => (fragmentTiles_run hp (mem_orderedRuns.1 h)).symm

theorem mem_touchedTiles {t : BankTile} : t ∈ touchedTiles b (orderedRuns k (snapshotOf tb k) rc r) ↔
    t.bank = b ∧ ∃ i j at_, TakesPart tb k rc r i j at_ ∧ t.tile = tileOfPixel at_ := by
  simp only [touchedTiles, mem_dropRepeats, List.mem_flatMap, Prod.exists, mem_orderedRuns, List.mem_map]
  constructor
  · rintro ⟨j, run, hr, q, hq, rfl⟩
    obtain ⟨n, hn⟩ := List.getElem?_of_mem hq
    exact ⟨rfl, _, j, q.pos, (run_carries (b := b) hr hn).1, rfl⟩
  · obtain ⟨bank, tile⟩ := t
    rintro ⟨rfl, i, j, at_, takes, rfl⟩
    obtain ⟨run, hr, m, q, -, hq, rfl⟩ := takes.in_run
    exact ⟨j, run, hr, q, List.mem_of_getElem? hq, rfl⟩

/-! ## The pixel map (R45, R64) -/

/-- R64: the entry names a run that holds the request pixel, or none does. -/
theorem pixelMapEntry_cases (runs : List (Nat × Run)) (i : Nat) :
    (∃ m j run, runs[m]? = some (j, run) ∧ run.first ≤ i ∧ i < run.first + run.pixels.length ∧
      pixelMapEntry runs i =
        some (m, if run.descending = some true then run.pixels.length - 1 - (i - run.first) else i - run.first)) ∨
    pixelMapEntry runs i = none ∧ ∀ jr ∈ runs, jr.2.first ≤ i → jr.2.first + jr.2.pixels.length ≤ i := by
  unfold pixelMapEntry
  cases found : runs.zipIdx.find? fun e =>
      decide (e.1.2.first ≤ i) && decide (i < e.1.2.first + e.1.2.pixels.length) with
  | none =>
    refine .inr ⟨rfl, fun jr h first => ?_⟩
    obtain ⟨m, hm⟩ := List.getElem?_of_mem h
    have misses := List.find?_eq_none.1 found (jr, m) (List.mem_zipIdx_iff_getElem?.2 hm)
    simpa [first] using misses
  | some e =>
    obtain ⟨⟨j, run⟩, m⟩ := e
    have holds := List.find?_some found
    simp only [Bool.and_eq_true, decide_eq_true_eq] at holds
    exact .inl ⟨m, j, run, List.mem_zipIdx_iff_getElem?.1 (List.mem_of_find?_eq_some found), holds.1, holds.2, rfl⟩

/-- R58: a request pixel between the ends of a run takes part for the run's pane. -/
theorem run_takes (hr : run ∈ paneRuns k (snapshotOf tb k) rc r j) (first : run.first ≤ i)
    (last : i < run.first + run.pixels.length) : ∃ at_, TakesPart tb k rc r i j at_ ∧
      Carries rc b r (fragmentOfRun (bodyKind r.body) b j run)
        (mirrored (fragmentOfRun (bodyKind r.body) b j run) (i - run.first)) i at_ := by
  obtain ⟨q, hq⟩ : ∃ q, run.pixels.reverse[i - run.first]? = some q :=
    ⟨_, List.getElem?_eq_getElem (by rw [List.length_reverse]; omega)⟩
  have holds := run_carries (b := b) hr hq
  rw [Nat.add_sub_of_le first] at holds
  exact ⟨q.pos, holds⟩

/-- R45, R64: the entry of a pixel of a READ that takes part names its fragment and its position there. -/
theorem pixelMapEntry_takes (hb : r.body = .read n) (h : TakesPart tb k rc r i j at_) :
    ∃ m f p, pixelMapEntry (orderedRuns k (snapshotOf tb k) rc r) i = some (m, p) ∧
      (requestFragments tb k rc b r)[m]? = some f ∧ f.pane = j ∧ Carries rc b r f p i at_ := by
  rcases pixelMapEntry_cases (orderedRuns k (snapshotOf tb k) rc r) i with
    ⟨m, j', run, hm, first, last, entry⟩ | ⟨-, misses⟩
  · have hr := mem_orderedRuns.1 (List.mem_of_getElem? hm)
    obtain ⟨at', takes, carries⟩ := run_takes (b := b) hr first last
    cases h.read_unique hb takes
    cases h.unique takes
    refine ⟨m, fragmentOfRun (bodyKind r.body) b j run, _, entry, ?_, rfl, ?_⟩
    · rw [requestFragments, List.getElem?_map, hm, Option.map_some]
    · simpa [mirrored, fragmentOfRun] using carries
  · obtain ⟨run, hr, m, q, rfl, hq, -⟩ := h.in_run
    have inside := (List.getElem?_eq_some_iff.1 hq).1
    rw [List.length_reverse] at inside
    have := misses (j, run) (mem_orderedRuns.2 hr) (Nat.le_add_right _ _)
    dsimp only at this
    omega

/-- R64: the entry of a pixel that takes part for no pane is ZERO. -/
theorem pixelMapEntry_zero (h : ∀ j at_, ¬ TakesPart tb k rc r i j at_) :
    pixelMapEntry (orderedRuns k (snapshotOf tb k) rc r) i = none := by
  rcases pixelMapEntry_cases (orderedRuns k (snapshotOf tb k) rc r) i with
    ⟨m, j, run, hm, first, last, -⟩ | ⟨entry, -⟩
  · obtain ⟨at_, takes, -⟩ := run_takes (b := .bank0) (mem_orderedRuns.1 (List.mem_of_getElem? hm)) first last
    exact absurd takes (h j at_)
  · exact entry

/-- R45: the pixel map of a READ. -/
theorem makeContext_pixelMap {p : Port} {gen : BitVec 16} (hb : r.body = .read n) :
    (makeContext p gen rc b (snapshotOf tb k) k r).pixelMap =
      (List.range n).map (pixelMapEntry (orderedRuns k (snapshotOf tb k) rc r)) := by
  simp [makeContext, hb, bodyKind, bodyCount]

/-- R49: the pixels of a WRITE that the model counts as dropped. -/
def droppedList (tb : Option Table) (k : Nat) (rc : RecordCopy) (r : Request) : List Nat :=
  (List.range (bodyCount r.body)).filter (pixelDropped k (snapshotOf tb k) rc r)

theorem droppedPixels_eq : droppedPixels k (snapshotOf tb k) rc r = (droppedList tb k rc r).length := rfl

theorem mem_droppedList : i ∈ droppedList tb k rc r ↔
    (∃ w, WritesWord r i w) ∧ ∀ j at_, ¬ TakesPart tb k rc r i j at_ := by
  rw [droppedList, List.mem_filter, List.mem_range, pixelDropped_iff, and_iff_right_iff_imp]
  rintro ⟨⟨w, written⟩, -⟩
  exact written.write.2

end

/-- Settles O46: the fragments by `fragment_extent`, `fragment_position`, `TakesPart.carried` and `fragment_longest`,
their order by `requestFragments_sorted`, the tiles by `touchedTiles_eq`, the pixel map by `pixelMapEntry_takes` and
`pixelMapEntry_zero`, the dropped pixels by `mem_droppedList`. -/
theorem fragmentsStayInTheirBank : Obligations.FragmentsStayInTheirBank := by
  intro p gen rc b tb k r right
  refine ⟨rfl, fun f hf => fragment_extent right hf, fun f hf n hn => fragment_position hf hn,
    fun i j at_ h => TakesPart.carried h, requestFragments_sorted, fun f hf g hg => fragment_longest right hf hg,
    ⟨touchedTiles_eq right, dropRepeats_nodup _, fun t => mem_touchedTiles⟩, fun write => ?_, fun n read => ?_,
    droppedList tb k rc r, List.nodup_range.filter _, droppedPixels_eq, fun i => mem_droppedList⟩
  · exact if_neg (by rw [write]; nofun)
  · have map := makeContext_pixelMap (tb := tb) (k := k) (rc := rc) (b := b) (p := p) (gen := gen) read
    have entry : ∀ i, i < n → (makeContext p gen rc b (snapshotOf tb k) k r).pixelMap[i]? =
        some (pixelMapEntry (orderedRuns k (snapshotOf tb k) rc r) i) := fun i hi => by
      rw [map, List.getElem?_map, List.getElem?_range hi, Option.map_some]
    refine ⟨(congrArg List.length map).trans (by simp), fun i hi => ⟨fun j at_ h => ?_, fun h => ?_⟩⟩
    · obtain ⟨m, f, position, named, carried⟩ := pixelMapEntry_takes (b := b) read h
      exact ⟨m, f, position, (entry i hi).trans (congrArg some named), carried⟩
    · exact (entry i hi).trans (congrArg some (pixelMapEntry_zero h))

end Sys2Proof.Machine
end

section
/-!
O19: a failed row read and the fill it ends in (R72, R134, R138).
-/
namespace Sys2Proof.Machine

/-! ## The rows of a fill (R72, R134) -/

/-- R134: 40 rows. -/
theorem fillRows_length (target : RecordCopy) (v : Pixel) (t : Tile) : (fillRows target v t).length = 40 :=
  List.length_replicate

/-- R134: 40 values in each row. -/
theorem fillRows_row_length {target : RecordCopy} {v : Pixel} {t : Tile} {row : List Pixel}
    (h : row ∈ fillRows target v t) : row.length = 40 := by
  rw [List.eq_of_mem_replicate h, List.length_map, List.length_range]

/-- R72: the same value in every row, with the gain of its column. -/
theorem fillRows_pixel (target : RecordCopy) (v : Pixel) (t : Tile) {q col : Nat} (hq : q < 40) (hc : col < 40) :
    ((fillRows target v t).getD q [])[col]? = some (creaseWrite (gainCode target (40 * t.col + col)) v) := by
  rw [fillRows, List.getD_replicate _ hq, List.getElem?_map, List.getElem?_range hc, Option.map_some]

/-! ## The answers to an abandoned move (R138) -/

section
variable {a : Answer} {b : BufferId} {r : Reading} {s : State}

/-- R135: the rows read of a move after an answer; a failing one brings none. -/
def keptRows (a : Answer) (r : Reading) : List (List Pixel) :=
  match a with
  | .ok data => r.rows ++ [data]
  | .memoryError => r.rows

/-- R138: the first failing answer of a move counts a memory error; every other answer counts nothing. -/
def firstFailureCounted (a : Answer) (r : Reading) (s : State) : State :=
  if a = .memoryError ∧ r.abandon = false then countMemoryError s else s

@[simp] theorem firstFailureCounted_engine : (firstFailureCounted a r s).engine = s.engine := by
  unfold firstFailureCounted; split <;> rfl

@[simp] theorem firstFailureCounted_ctrl : (firstFailureCounted a r s).ctrl = s.ctrl := by
  unfold firstFailureCounted; split <;> rfl

@[simp] theorem firstFailureCounted_cmd : (firstFailureCounted a r s).cmd = s.cmd := by
  unfold firstFailureCounted; split <;> rfl

/-- What is counted does not depend on DN. -/
theorem firstFailureCounted_dn (d : DnPort) :
    firstFailureCounted a r { s with dn := d } = { firstFailureCounted a r s with dn := d } := by
  unfold firstFailureCounted; split <;> rfl

/-- R138: a failing answer, and any answer once the move is abandoned, leaves it abandoned, and the last of the reads
issued ends it. -/
theorem rowReadAnswered_abandoned (h : a = .memoryError ∨ r.abandon = true) :
    rowReadAnswered b r a s =
      if r.answered + 1 = r.issued then abandonMove b r (firstFailureCounted a r s)
      else onEngine
        (setBuffer b (.reading { r with answered := r.answered + 1, abandon := true, rows := keptRows a r }))
        (firstFailureCounted a r s) := by
  cases a with
  | memoryError => cases hr : r.abandon <;> simp [rowReadAnswered, firstFailureCounted, keptRows, hr] <;> rfl
  | ok data =>
    have abandoned : r.abandon = true := h.resolve_left nofun
    simp [rowReadAnswered, firstFailureCounted, keptRows, abandoned]
    rfl

/-- R138: the fill that an abandoned move becomes. -/
theorem abandonMove_eq {target : RecordCopy} {p : Pane} (ht : s.ctrl.target = some target)
    (hp : target.panes[r.move.targetPane]? = some p) :
    let fill : FillKind := .surface p.surface r.move.targetPane
    abandonMove b r s = { s with
      engine := setBuffer b (.writing {
        tile := r.tile, bank := otherBank s.ctrl.frontBank, op := .fill
        rows := fillRows target (fillValue s.cmd.shadow fill) r.tile, issued := 0, answered := 0, failure := false })
        { s.engine with map := setEntry s.engine.map r.tile (.filling fill b) } } := by
  simp only [abandonMove, fillBuffer, targetRecord, ht, Option.getD_some, hp]
  rfl

/-- R15, R135: an answer to a row read is handed to the buffer that reads. -/
theorem rowReadAnswer_runs {f : InFlight} {rest : List InFlight} (h : Released s) (hn : AnswerIsNext a f rest s)
    (hf : f.owner = .row b) (hb : bufferOf b s.engine = .reading r) :
    exec (.rowReadAnswer a) s =
      .next (settleOutputs s (rowReadAnswered b r a { s with dn := { s.dn with inFlight := rest } })) := by
  simp only [exec, execRowReadAnswer, h.run, withAnswer_examined hn, hf, hb, popInFlight_examined hn, happens]

end

/-- Settles O19: the rows by `fillRows_pixel`; the answer by `rowReadAnswered_abandoned`, whose last read ends the move
in the fill of `abandonMove_eq`. -/
theorem failedRowReadAbandonsTheMove : Obligations.FailedRowReadAbandonsTheMove := by
  refine ⟨fun target tb fill t => ?_, fun a f rest b r target p s hr hn hf hb ha ht hp => ?_⟩
  · cases fill <;> exact ⟨fillRows_length _ _ t, fun _ => fillRows_row_length, fun _ _ => fillRows_pixel target _ t⟩
  · rw [rowReadAnswer_runs hr hn hf hb, rowReadAnswered_abandoned ha, firstFailureCounted_dn]
    show _ = Host.Outcome.next (settleOutputs s { firstFailureCounted a r s with dn := _, engine := _ })
    by_cases last : r.answered + 1 = r.issued
    · rw [if_pos last, abandonMove_eq (by simpa using ht) hp]
      simp only [if_pos last, firstFailureCounted_engine, firstFailureCounted_ctrl, firstFailureCounted_cmd]
    · simp only [if_neg last, onEngine, firstFailureCounted_engine]
      rfl

end Sys2Proof.Machine
end

section
/-!
O43: the gain curve of a band and the code of a column (R67 to R70).
-/
namespace Sys2Proof.Machine

/-! ## The curve (R69) -/

section
variable {P Hd m : Nat}

/-- R69: the code `m` columns into halving `k`. -/
theorem gainAt_halving (k : Nat) (h : m < Hd) : gainAt P Hd (k * Hd + m) = P * (2 * Hd - m) / (2 * Hd * 2 ^ k) := by
  obtain ⟨quotient, rest⟩ := (Nat.div_mod_unique (Nat.zero_lt_of_lt h)).2
    ⟨show m + Hd * k = k * Hd + m by rw [Nat.add_comm, Nat.mul_comm], h⟩
  rw [gainAt, quotient, rest]

/-- R69: at the start of halving `k` the code is the peak halved `k` times. -/
theorem gainAt_start (k : Nat) (h : 1 ≤ Hd) : gainAt P Hd (k * Hd) = P / 2 ^ k := by
  rw [← Nat.add_zero (k * Hd), gainAt_halving k h, Nat.sub_zero, Nat.mul_comm P, Nat.mul_div_mul_left _ _ (by omega)]

/-- R69: the code is at most that of the start of its halving. -/
theorem gainAt_le_start (P d : Nat) (h : 1 ≤ Hd) : gainAt P Hd d ≤ P / 2 ^ (d / Hd) := by
  rw [← gainAt_start _ h, gainAt, gainAt, Nat.mul_mod_left, Nat.mul_div_left _ h]
  exact Nat.div_le_div_right (Nat.mul_le_mul_left P (by omega))

/-- R69: the code does not rise with the distance, within a halving nor from its last column to the next one's first. -/
theorem gainAt_succ_le (P d : Nat) (h : 1 ≤ Hd) : gainAt P Hd (d + 1) ≤ gainAt P Hd d := by
  obtain ⟨k, m, inside, rfl⟩ : ∃ k m, m < Hd ∧ d = k * Hd + m :=
    ⟨d / Hd, d % Hd, Nat.mod_lt d h, (Nat.div_add_mod' d Hd).symm⟩
  rw [gainAt_halving k inside]
  by_cases last : m + 1 = Hd
  · rw [Nat.add_assoc, last, ← Nat.succ_mul, gainAt_start _ h]
    calc P / 2 ^ (k + 1) = Hd * P / (Hd * 2 ^ (k + 1)) := (Nat.mul_div_mul_left _ _ h).symm
      _ = P * Hd / (2 * Hd * 2 ^ k) := by congr 1 <;> ring
      _ ≤ P * (2 * Hd - m) / (2 * Hd * 2 ^ k) := Nat.div_le_div_right (Nat.mul_le_mul_left P (by omega))
  · rw [Nat.add_assoc, gainAt_halving k (by omega)]
    exact Nat.div_le_div_right (Nat.mul_le_mul_left P (by omega))

end

/-! ## The band and the code of a column (R67, R68, R70) -/

section
variable {c : CreaseContext} {x : Nat}

/-- R68: the band is `d < Wb`. -/
theorem inBand_iff (h : HingeId) (c : CreaseContext) (x : Nat) :
    inBand h c x = true ↔ creaseDistance (hingeCentre h) x < c.band := decide_eq_true_iff

/-- R67, R68: a band reaches its half-width to either side of the boundary before the centre column. -/
theorem creaseDistance_lt_iff {centre w : Nat} (x : Nat) (_ : 1 ≤ centre) :
    creaseDistance centre x < w ↔ centre ≤ x + w ∧ x < centre + w := by
  unfold creaseDistance
  split <;> omega

/-- A column in the band has the code at its distance. -/
theorem bandCode_in {h : HingeId} (hx : inBand h c x = true) :
    bandCode h (some c) x = some (gainAt c.peak c.half (creaseDistance (hingeCentre h) x)) := if_pos hx

/-- A hinge gives no code where no context of its own holds the column. -/
theorem bandCode_out {h : HingeId} {o : Option CreaseContext} (hx : ∀ c, o = some c → inBand h c x = false) :
    bandCode h o x = none := by
  rcases o with _ | c
  · rfl
  · simp [bandCode, hx c rfl]

end

/-- Settles O43: the curve by `gainAt_halving` and `gainAt_le_start`, the band by `creaseDistance_lt_iff`, the code of a
column by what each hinge's band gives it. -/
theorem gainCodeFollowsTheCurve : Obligations.GainCodeFollowsTheCurve := by
  refine ⟨fun P Hd d h =>
      ⟨rfl, ?_, fun k => gainAt_start k h, fun k => ?_, gainAt_succ_le P d h, ?_, fun small => ?_, ?_, ?_⟩,
    fun centre x => ⟨fun h => if_pos h, fun h => if_neg (by omega)⟩,
    fun c x => ⟨inBand_iff _ c x, inBand_iff _ c x, ?_, ?_⟩, fun rc c x hc hx => ?_, fun rc c x hc hx h1 => ?_,
    fun rc x h1 h2 => ?_⟩
  · simpa using gainAt_start (P := P) 0 h
  · rw [gainAt_halving k (by omega), show 2 * Hd - (Hd - 1) = Hd + 1 by omega]
  · exact (gainAt_le_start P d h).trans (Nat.div_le_self _ _)
  · have bound := gainAt_le_start P d h
    rw [Nat.div_eq_of_lt (by omega)] at bound
    exact Nat.le_zero.1 bound
  · simpa using gainAt_start (P := P) (Hd := 1) d le_rfl
  · simp [gainAt]
  · exact (inBand_iff .h1 c x).trans (creaseDistance_lt_iff x (by decide))
  · exact (inBand_iff .h2 c x).trans (creaseDistance_lt_iff x (by decide))
  · simp only [gainCode, hc, bandCode_in hx]; rfl
  · simp only [gainCode, bandCode_out h1, hc, bandCode_in hx]; rfl
  · simp only [gainCode, bandCode_out h1, bandCode_out h2, Option.getD_none]

end Sys2Proof.Machine
end

section
/-!
O44: the crease stage on a channel and on a pixel (R71, R73, R76).
-/
namespace Sys2Proof.Machine

/-! ## A channel (R71, R73, R76) -/

/-- The clamp at 255 makes a channel of a result. -/
theorem toNat_clamped (n : Nat) : (BitVec.ofNat 8 (min 255 n)).toNat = min 255 n :=
  Nat.mod_eq_of_lt (by omega)

/-- A result that is the value of a channel is not clamped. -/
theorem clamped_eq {v : Byte} {n : Nat} (h : n = v.toNat) : BitVec.ofNat 8 (min 255 n) = v := by
  have := v.isLt
  exact BitVec.eq_of_toNat_eq (by rw [toNat_clamped]; omega)

/-- R76: at gain code 0 the write path keeps a channel. -/
theorem liftChannel_zero (v : Byte) : liftChannel 0 v = v := clamped_eq (by omega)

/-- R76: a move between equal codes keeps a channel. -/
theorem rescaleChannel_self (c : Nat) (v : Byte) : rescaleChannel c c v = v := by
  refine clamped_eq (Nat.div_eq_of_lt_le (by omega) ?_)
  rw [Nat.add_mul]
  omega

/-- R76: the value written at code `c`, scaled back to code 0, misses `v * (256 + c)` by at most half of 256, which is
less than half of `256 + c` where `c` is not 0, so rounding to the nearest finds `v`. -/
theorem lifted_scaledBack {c v : Nat} (pos : 0 < c) :
    ((v * (256 + c) + 128) / 256 * 256 + (256 + c) / 2) / (256 + c) = v := by
  refine Nat.div_eq_of_lt_le ?_ ?_
  · omega
  · rw [Nat.add_mul]
    omega

/-- R76: a move to code 0 gives back what was written where the write did not clamp. -/
theorem rescaleChannel_liftChannel {c : Nat} {v : Byte} (h : (v.toNat * (256 + c) + 128) / 256 ≤ 255) :
    rescaleChannel c 0 (liftChannel c v) = v := by
  rcases c.eq_zero_or_pos with rfl | pos
  · rw [liftChannel_zero, rescaleChannel_self]
  · refine clamped_eq ?_
    rw [liftChannel, toNat_clamped, Nat.min_eq_right h]
    exact lifted_scaledBack pos

/-! ## A pixel (R71, R73) -/

/-- Blue, green and red are bytes 0 to 2. -/
theorem pixelByte_mapChannels (f : Byte → Byte) (p : Pixel) {i : Nat} (h : i < 3) :
    pixelByte (mapChannels f p) i = f (pixelByte p i) := by
  obtain ⟨blue, green, red, -⟩ := mapChannels_bytes f p
  match i, h with
  | 0, _ => exact blue
  | 1, _ => exact green
  | 2, _ => exact red

/-- Alpha is byte 3. -/
theorem pixelByte_mapChannels_alpha (f : Byte → Byte) (p : Pixel) : pixelByte (mapChannels f p) 3 = pixelByte p 3 :=
  (mapChannels_bytes f p).2.2.2

/-- Settles O44: the channels by `toNat_clamped`, the pixel by its bytes, exactness by `rescaleChannel_liftChannel`, the
forwarded write by `pathIssue_forward`. -/
theorem creaseArithmeticIsExact : Obligations.CreaseArithmeticIsExact :=
  ⟨fun _ _ => toNat_clamped _, fun _ _ _ => toNat_clamped _,
    fun _ _ _ p => ⟨fun _ h => ⟨pixelByte_mapChannels _ p h, pixelByte_mapChannels _ p h⟩,
      pixelByte_mapChannels_alpha _ p, pixelByte_mapChannels_alpha _ p⟩,
    liftChannel_zero, rescaleChannel_self, fun _ _ _ => rescaleChannel_liftChannel,
    fun _ _ _ _ h => ⟨_, pathIssue_forward h, rfl⟩⟩

end Sys2Proof.Machine
end

section
/-!
O31, O37, O38: layout requests, and those who send them: the settle and fallback timers and FORCE; RELEASE (R89, R92 to
R94, R103, R104, R106, R109, R158).
-/
namespace Sys2Proof.Machine

/-! ## Layout requests (R103, R104, R106, R109) -/

/-- R103: a commit of a layout that the shadow table does not hold changes nothing. -/
theorem commitLayout_unheld {n : Nat} {s : State} (h : ∀ tb, s.cmd.shadow = some tb → tableRecord tb n = none) :
    commitLayout n s = s := by
  unfold commitLayout
  cases hs : s.cmd.shadow with
  | none => rfl
  | some tb => dsimp only; rw [h tb hs]

/-- R103, R106: a layout that the shadow table holds is committed. -/
theorem commitLayout_committed {n : Nat} {s : State} {tb : Table} {r : LayoutRecord} (hs : s.cmd.shadow = some tb)
    (hr : tableRecord tb n = some r) : Committed .commit (copyRecord tb r) s.ctrl.active s (commitLayout n s) := by
  have commits : commitLayout n s = beginTransition .commit (copyRecord tb r) s.ctrl.active s := by
    simp only [commitLayout, hs, hr, commitRecord]
  rw [commits]
  exact (beginTransition_spec _ _ _ _).1

/-- R103, R104, R109: what a layout request does in each controller state. -/
theorem layoutRequest_spec (n : Nat) (s : State) :
    let v := layoutRequest n s
    (s.ctrl.state = .steady → s.ctrl.loadHold = false →
      (activeNumber s = some n ∨ (∀ tb, s.cmd.shadow = some tb → tableRecord tb n = none) → v = s) ∧
      ∀ tb r, activeNumber s ≠ some n → s.cmd.shadow = some tb → tableRecord tb n = some r →
        Committed .commit (copyRecord tb r) s.ctrl.active s v) ∧
    (s.ctrl.state = .steady → s.ctrl.loadHold = true → v = slotTakes (activeNumber s) n s) ∧
    (inTransition s.ctrl.state = true → v = slotTakes (targetNumber s) n s) ∧ (s.ctrl.state = .loading → v = s) := by
  unfold layoutRequest
  refine ⟨fun h hl => ?_, fun h hl => ?_, fun h => ?_, fun h => ?_⟩
  · simp only [h, hl, Bool.false_eq_true, if_false]
    refine ⟨fun hn => ?_, fun tb r ha hs hr => ?_⟩
    · split
      · rfl
      · rename_i ha
        exact commitLayout_unheld (hn.resolve_left ha)
    · rw [if_neg ha]
      exact commitLayout_committed hs hr
  · simp only [h, hl, if_true, slotRequest_eq]
  · cases hs : s.ctrl.state with
    | loading | steady => rw [hs] at h; cases h
    | draining | relocating | flipWait => exact slotRequest_eq _ _ _
  · simp only [h]

/-- R109: what a layout request leaves of the pending slot and of the counters. -/
theorem slotTakes_eq (current : Option Nat) (n : Nat) (s : State) : slotTakes current n s = { s with
    ctrl := { s.ctrl with slot := if current = some n then none else some n }
    notice := { s.notice with
      counters := if current ≠ some n ∧ s.ctrl.slot ≠ none ∧ s.ctrl.slot ≠ some n
        then { s.notice.counters with replacements := addCount 1 s.notice.counters.replacements }
        else s.notice.counters } } := by
  by_cases h : current ≠ some n ∧ s.ctrl.slot ≠ none ∧ s.ctrl.slot ≠ some n
  · simp only [slotTakes, if_pos h]
  · simp only [slotTakes, if_neg h]

/-! ## The timers' expiry (R89, R92) -/

section
variable {due n : Nat} {s : State}

/-- R89: the settle timer expires at its due time. -/
theorem settleTimerExpiry_runs (h : Released s) (hn : s.now ≤ due) (hd : ∀ d ∈ runningDues s, due ≤ d)
    (ht : s.monitor.settle = .running n due) :
    exec .settleTimerExpiry s = .next (settleOutputs s (settleExpires n { s with now := due })) := by
  simp only [exec, execSettleTimerExpiry, h.run, ht, atTime_happens hd hn]

/-- R92: the fallback timer expires at its due time. -/
theorem fallbackTimerExpiry_runs (h : Released s) (hn : s.now ≤ due) (hd : ∀ d ∈ runningDues s, due ≤ d)
    (ht : s.monitor.fallback = .running due) :
    exec .fallbackTimerExpiry s = .next (settleOutputs s (fallbackExpires { s with now := due })) := by
  simp only [exec, execFallbackTimerExpiry, h.run, ht, atTime_happens hd hn]

/-- R89: under FORCE the settle timer only expires. -/
theorem settleExpires_forced (h : s.monitor.override ≠ none) :
    settleExpires n s = { s with monitor := { s.monitor with settle := .expired n } } := by
  obtain ⟨k, hk⟩ := Option.ne_none_iff_exists'.1 h
  simp only [settleExpires, onMonitor, hk]

/-- R89: without FORCE the layout of an expired settle timer is requested. -/
theorem settleExpires_requests_layout (h : s.monitor.override = none) :
    settleExpires n s = layoutRequest n { s with monitor := { s.monitor with settle := .expired n } } := by
  simp only [settleExpires, onMonitor, h]

/-- R92: under FORCE, and with no intended layout or layout 0 intended, the fallback timer is only SPENT. -/
theorem fallbackExpires_spent (h : s.monitor.override ≠ none ∨ intendedLayout s = none ∨ intendedLayout s = some 0) :
    fallbackExpires s = { s with monitor := { s.monitor with fallback := .spent } } := by
  unfold fallbackExpires
  dsimp only [onMonitor]
  split
  · rename_i k hov hi
    rcases h with h | h | h
    · exact absurd hov h
    · rw [hi] at h; cases h
    · rw [hi] at h; cases h; rfl
  · rfl

/-- R92: without FORCE, and with another layout intended, layout 0 is requested and FALLBACK_TAKEN raised. -/
theorem fallbackExpires_taken (ho : s.monitor.override = none) (hi : intendedLayout s = some n) (hn : n ≠ 0) :
    fallbackExpires s =
      raise .fallbackTaken (layoutRequest 0 { s with monitor := { s.monitor with fallback := .spent } }) := by
  simp only [fallbackExpires, onMonitor, ho, hi, if_neg hn]

end

/-- Settles O31: each expiry at its due time, its layout request by `layoutRequest_spec`. -/
theorem monitorTimersExpire : Obligations.MonitorTimersExpire := by
  intro due s hr hn hd requested
  obtain ⟨now, hnow⟩ : ∃ u, u = { s with now := due } := ⟨_, rfl⟩
  have override : now.monitor.override = s.monitor.override := by rw [hnow]
  have intended : intendedLayout now = intendedLayout s := by rw [hnow]; rfl
  constructor
  · intro n ht expired
    rw [settleTimerExpiry_runs hr hn hd ht, ← hnow, ← override]
    exact ⟨fun ho => by rw [settleExpires_forced ho, hnow],
      fun ho => ⟨_, layoutRequest_spec n expired, by rw [settleExpires_requests_layout ho, hnow]⟩⟩
  · intro ht spent
    rw [fallbackTimerExpiry_runs hr hn hd ht, ← hnow, ← override, ← intended]
    exact ⟨fun h => by rw [fallbackExpires_spent h, hnow],
      fun n ho hi h0 => ⟨_, layoutRequest_spec 0 spent, by rw [fallbackExpires_taken ho hi h0, hnow]⟩⟩

/-! ## FORCE and RELEASE (R93, R94, R158) -/

section
variable {p : Port} {tag : Tag} {seq : Byte} {arg : BitVec 16} {s : State}

/-- R154: outside LOADING, with no load running, no command is answered BUSY. -/
theorem not_commandBusy (hl : s.ctrl.state ≠ .loading) (hn : s.cmd.load = none) : commandBusy s = false := by
  simp [commandBusy, hl, hn]

/-- R158: a layout can be forced where its number is at most 15 and the shadow table has a record for it. -/
theorem layoutHeld_iff {n : Nat} : layoutHeld n s = true ↔
    ∃ tb r, n ≤ 15 ∧ s.cmd.shadow = some tb ∧ tableRecord tb n = some r := by
  unfold layoutHeld
  cases s.cmd.shadow <;> simp [Option.isSome_iff_exists]

/-- R153, R158: what a FORCE with a new sequence does, outside LOADING and with no load running. -/
theorem force_runs (h : Released s) (ht : TakesTag p tag s) (hne : seq ≠ s.cmd.lastSeq) (hl : s.ctrl.state ≠ .loading)
    (hn : s.cmd.load = none) :
    let took := taking p (commandRequest tag seq 0x02 arg) seq s
    (layoutHeld arg.toNat s = false →
      exec (.force p tag seq arg) s = .next (settleOutputs s (respond seq .badArgument arg took))) ∧
    (layoutHeld arg.toNat s = true →
      exec (.force p tag seq arg) s =
        .next (settleOutputs s (respond seq .done 0 (monitorForce arg.toNat took)))) := by
  intro took
  have run : exec (.force p tag seq arg) s = .next (settleOutputs s (takeForce seq arg took)) :=
    present_command_new h ht seq 0x02 arg hne
  have busy : commandBusy took = false := not_commandBusy (by simpa [took] using hl) (by simpa [took] using hn)
  have held : layoutHeld arg.toNat took = layoutHeld arg.toNat s := by simp [layoutHeld, took]
  simp only [run, takeForce, busy, held]
  exact ⟨fun hf => by simp [hf], fun hf => by simp [hf]⟩

/-- R153, R158: a RELEASE with a new sequence, outside LOADING and with no load running, is answered DONE. -/
theorem release_runs (h : Released s) (ht : TakesTag p tag s) (hne : seq ≠ s.cmd.lastSeq) (hl : s.ctrl.state ≠ .loading)
    (hn : s.cmd.load = none) :
    let took := taking p (commandRequest tag seq 0x03 arg) seq s
    exec (.release p tag seq arg) s = .next (settleOutputs s (respond seq .done 0 (monitorRelease took))) := by
  intro took
  have run : exec (.release p tag seq arg) s = .next (settleOutputs s (takeRelease seq took)) :=
    present_command_new h ht seq 0x03 arg hne
  have busy : commandBusy took = false := not_commandBusy (by simpa [took] using hl) (by simpa [took] using hn)
  rw [run, takeRelease, if_neg (Bool.eq_false_iff.1 busy)]

/-- R94: with no candidate, or the intended layout as candidate, RELEASE clears the override alone. -/
theorem monitorRelease_settled (h : s.monitor.candidate = none ∨ s.monitor.candidate = intendedLayout s) :
    monitorRelease s = { s with monitor := { s.monitor with override := none } } := by
  unfold monitorRelease
  dsimp only [onMonitor]
  split
  · rename_i c tb hc _
    refine if_pos ?_
    rw [hc] at h
    exact (h.resolve_left nofun).symm
  · rfl

/-- R94: a candidate other than the intended layout starts its settle time. -/
theorem monitorRelease_starts {n : Nat} {tb : Table} {r : LayoutRecord} (hc : s.monitor.candidate = some n)
    (hi : intendedLayout s ≠ some n) (hs : s.cmd.shadow = some tb) (hr : tableRecord tb n = some r) :
    monitorRelease s = { s with monitor := { s.monitor with
      override := none, settle := .running n (s.now + r.settleMs * 1000) } } := by
  have kept : ∀ m : Monitor, intendedLayout { s with monitor := m } = intendedLayout s := fun _ => rfl
  simp only [monitorRelease, onMonitor, hc, hs, kept, if_neg hi, startSettle, hr]

end

/-- Settles O37: the layout request of a FORCE by `layoutRequest_spec`. -/
theorem forceIsTaken : Obligations.ForceIsTaken := by
  intro p tag seq arg s hr ht hne hl hn n taken holds
  obtain ⟨refused, forces⟩ := force_runs (arg := arg) hr ht hne hl hn
  have took : taking p (commandRequest tag seq 0x02 arg) seq s = taken := by simp [taking, taken, onCmd]
  rw [took] at refused forces
  have notice : taken.notice = s.notice := by simp [taken]
  have ctrl : taken.ctrl = s.ctrl := by simp [taken]
  refine ⟨fun unheld => ?_, fun tb r held => ?_⟩
  · rw [refused (Bool.eq_false_iff.2 fun h => ?_)]
    · simp only [respond, onNotice, formResponse, notice]
    · obtain ⟨tb, r, held⟩ := layoutHeld_iff.1 h
      exact unheld tb r held
  · obtain ⟨forced, hforced⟩ :
        ∃ u, u = { taken with monitor := { s.monitor with override := some n } } := ⟨_, rfl⟩
    have force : monitorForce n taken = layoutRequest n forced := by simp [monitorForce, hforced, onMonitor, taken]
    have ctrl' : forced.ctrl = s.ctrl := by rw [hforced, ctrl]
    have shadow : forced.cmd.shadow = s.cmd.shadow := by rw [hforced]
    have active : activeNumber forced = activeNumber s := by rw [activeNumber, ctrl', activeNumber]
    have target : targetNumber forced = targetNumber s := by rw [targetNumber, ctrl', targetNumber]
    obtain ⟨steady, -, transits, -⟩ := layoutRequest_spec n forced
    rw [ctrl', active, shadow] at steady
    rw [ctrl', target] at transits
    rw [forces (layoutHeld_iff.2 ⟨tb, r, held⟩), force]
    obtain ⟨-, hs, hrec⟩ := held
    refine ⟨fun h => ?_, fun h hh ha => ?_, fun h hh ha => ⟨_, hforced ▸ (steady h hh).2 tb r ha hs hrec, rfl⟩⟩
    · rw [transits h, slotTakes_eq, hforced]
      simp only [respond, onNotice, formResponse, ctrl, notice]
    · rw [(steady h hh).1 (.inl ha), hforced]
      simp only [respond, onNotice, formResponse, notice]

/-- Settles O38: the two cases of R94. -/
theorem releaseIsTaken : Obligations.ReleaseIsTaken := by
  intro p tag seq arg s hr ht hne hl hn answered
  have intended : intendedLayout (taking p (commandRequest tag seq 0x03 arg) seq s) = intendedLayout s := by
    simp [intendedLayout, activeNumber, targetNumber]
  rw [release_runs hr ht hne hl hn]
  refine ⟨fun h => ?_, fun n tb r hc hi hs hrec => ?_⟩
  · rw [monitorRelease_settled (by rw [intended]; simpa using h)]
    simp [answered, respond, onNotice, formResponse, taking, onCmd]
  · rw [monitorRelease_starts (n := n) (by simpa using hc) (by rwa [intended]) (by simpa using hs) hrec]
    simp [answered, respond, onNotice, formResponse, taking, onCmd]

end Sys2Proof.Machine
end

section
/-!
O30: matching (R85 to R88).
-/
namespace Sys2Proof.Machine

/-! ## The candidate (R24, R86, R87) -/

/-- R24: what a window contains. -/
theorem windowHolds_iff {w : AngleWindow} {a : Nat} : windowHolds w a = true ↔ w.lo ≤ a ∧ a ≤ w.hi := by
  simp only [windowHolds, Bool.and_eq_true, decide_eq_true_eq]

/-- R24, R87: the windows of a record, widened by a margin, hold both filtered angles. -/
theorem recordMatches_iff {margin : Nat} {m : Monitor} {r : LayoutRecord} : recordMatches margin m r = true ↔
    r.win1.lo - margin ≤ m.h1.filtered ∧ m.h1.filtered ≤ min 720 (r.win1.hi + margin) ∧
      r.win2.lo - margin ≤ m.h2.filtered ∧ m.h2.filtered ≤ min 720 (r.win2.hi + margin) := by
  simp only [recordMatches, Bool.and_eq_true, windowHolds_iff, widenWindow, and_assoc]

/-- R87: the search looks for a record of a number other than 0 whose windows hold both filtered angles. -/
def Searched (m : Monitor) (r : LayoutRecord) : Prop :=
  r.number ≠ 0 ∧ r.win1.lo ≤ m.h1.filtered ∧ m.h1.filtered ≤ r.win1.hi ∧
    r.win2.lo ≤ m.h2.filtered ∧ m.h2.filtered ≤ r.win2.hi

section
variable {t : Table} {m : Monitor} {intended : Option Nat}

/-- R87: the test of the search, as the model writes it. -/
theorem searched_iff {r : LayoutRecord} :
    (r.number != 0 && windowHolds r.win1 m.h1.filtered && windowHolds r.win2 m.h2.filtered) = true ↔ Searched m r := by
  simp only [Searched, Bool.and_eq_true, windowHolds_iff, bne_iff_ne, and_assoc]

/-- R87: the search finds the first such record in table order. -/
theorem searchCandidate_first {before after : List LayoutRecord} {r : LayoutRecord}
    (h : t.records = before ++ r :: after) (unfound : ∀ x ∈ before, ¬ Searched m x) (found : Searched m r) :
    searchCandidate t m = some r.number := by
  refine Option.map_eq_some_iff.2 ⟨r, List.find?_eq_some_iff_append.2 ⟨searched_iff.2 found, before, after, h, ?_⟩, rfl⟩
  exact fun x hx => by rw [Bool.not_eq_true', Bool.eq_false_iff, ne_eq, searched_iff]; exact unfound x hx

/-- R87: without such a record the search finds nothing. -/
theorem searchCandidate_none (unfound : ∀ r ∈ t.records, ¬ Searched m r) : searchCandidate t m = none := by
  refine Option.map_eq_none_iff.2 (List.find?_eq_none.2 fun r hr => ?_)
  rw [searched_iff]
  exact unfound r hr

/-- R87: the hysteresis test favours the intended layout. -/
def Favours (t : Table) (intended : Option Nat) (m : Monitor) : Prop :=
  ∃ n r, intended = some n ∧ n ≠ 0 ∧ tableRecord t n = some r ∧ recordMatches t.hysteresis m r = true

/-- R87: a favoured intended layout is the candidate. -/
theorem findCandidate_favoured (h : Favours t intended m) : findCandidate t intended m = intended := by
  obtain ⟨n, r, rfl, h0, hr, hm⟩ := h
  simp only [findCandidate, if_neg h0, hr, hm, if_true]

/-- R87: an intended layout that is not favoured leaves the search. -/
theorem findCandidate_searched (h : ¬ Favours t intended m) : findCandidate t intended m = searchCandidate t m := by
  unfold findCandidate
  cases intended with
  | none => rfl
  | some n =>
    dsimp only
    by_cases h0 : n = 0
    · rw [if_pos h0]
    · rw [if_neg h0]
      cases hr : tableRecord t n with
      | none => rfl
      | some r => exact if_neg fun hm => h ⟨n, r, rfl, h0, hr, hm⟩

end

/-! ## The settle timer (R88) -/

/-- R88: the settle timer after matching has found candidate `c`, in state `st` before it. -/
def settleAfter (t : Table) (intended c : Option Nat) (st : SettleTimer) (now : Nat) : SettleTimer :=
  match c with
  | none => .idle
  | some n =>
    if c = intended then .idle
    else if settleNames st n then st
    else match tableRecord t n with
      | none => st
      | some r => .running n (now + r.settleMs * 1000)

/-- R88: matching leaves the settle timer as `settleAfter` says, and nothing else changes with it. -/
theorem settleOnMatch_eq (t : Table) (intended c : Option Nat) (s : State) :
    settleOnMatch t intended c s =
      { s with monitor := { s.monitor with settle := settleAfter t intended c s.monitor.settle s.now } } := by
  unfold settleOnMatch settleAfter
  cases c with
  | none => rfl
  | some n =>
    dsimp only
    split
    · rfl
    · split
      · rfl
      · unfold startSettle
        cases tableRecord t n <;> rfl

/-- R88: a timer that names a layout is RUNNING or EXPIRED with it. -/
theorem settleNames_iff {st : SettleTimer} {n : Nat} :
    settleNames st n = true ↔ (∃ due, st = .running n due) ∨ st = .expired n := by
  cases st <;> simp [settleNames]

/-- R88: no candidate, and the intended layout as candidate, stop the timer. -/
theorem settleAfter_idle {t : Table} {intended c : Option Nat} {st : SettleTimer} {now : Nat}
    (h : c = none ∨ c = intended) : settleAfter t intended c st now = .idle := by
  cases c with
  | none => rfl
  | some n => exact if_pos (h.resolve_left nofun)

/-- R88: for another candidate a timer that names it goes on, and any other starts its settle time. -/
theorem settleAfter_other {t : Table} {intended : Option Nat} {n : Nat} {r : LayoutRecord} {st : SettleTimer}
    {now : Nat} (h : intended ≠ some n) (hr : tableRecord t n = some r) : settleAfter t intended (some n) st now =
      if settleNames st n then st else .running n (now + r.settleMs * 1000) := by
  simp only [settleAfter, if_neg h.symm, hr]

/-! ## Matching (R85) -/

/-- R85: matching with both hinges PRESENT, outside LOADING. -/
theorem runMatching_eq {t : Table} {s : State} (h1 : s.monitor.h1.state = .present) (h2 : s.monitor.h2.state = .present)
    (hl : s.ctrl.state ≠ .loading) (hs : s.cmd.shadow = some t) :
    let c := findCandidate t (intendedLayout s) s.monitor
    runMatching s = { s with monitor := { s.monitor with
      candidate := c, settle := settleAfter t (intendedLayout s) c s.monitor.settle s.now } } := by
  have both : bothPresent s.monitor = true := by simp [bothPresent, h1, h2]
  simp only [runMatching, if_pos (And.intro both hl), hs, settleOnMatch_eq, onMonitor]

/-- Settles O30: the candidate by `findCandidate_favoured` and `findCandidate_searched`, the timer by `settleAfter`. -/
theorem matchingFindsTheCandidate : Obligations.MatchingFindsTheCandidate := by
  intro tb s h1 h2 hl hs t a1 a2 held found favoured
  have run := runMatching_eq h1 h2 hl hs
  have candidate : t.monitor.candidate = findCandidate tb (intendedLayout s) s.monitor := by simp only [t, run]
  have settle : t.monitor.settle =
      settleAfter tb (intendedLayout s) t.monitor.candidate s.monitor.settle s.now := by simp only [t, run]
  have favours_iff : favoured ↔ Favours tb (intendedLayout s) s.monitor := by
    simp only [favoured, Favours, recordMatches_iff, held, a1, a2]
  refine ⟨fun h => ?_, fun h => ?_, fun h => ?_, fun n r hc hi hr => ?_, runMatching_spec s⟩
  · rw [candidate, findCandidate_favoured (favours_iff.1 h)]
  · rw [candidate, findCandidate_searched (mt favours_iff.2 h)]
    exact ⟨fun before r after => searchCandidate_first, searchCandidate_none⟩
  · rw [settle, settleAfter_idle h]
  · rw [settle, hc, settleAfter_other hi hr]
    exact ⟨fun named => if_pos (settleNames_iff.2 named), fun unnamed => if_neg (mt settleNames_iff.1 unnamed)⟩

end Sys2Proof.Machine
end

section
/-!
O28: poll rounds (R79, R179).
-/
namespace Sys2Proof.Machine

/-- R79: the sensor poll period. -/
theorem pollPeriod_eq (s : State) : pollPeriod s = s.cmd.shadow.elim 5 (·.pollMs) := by
  unfold pollPeriod
  cases s.cmd.shadow <;> rfl

/-- R79: a round that finds the round before it still running is not made. -/
theorem roundFallsDue_skipped {q : Poll} {s : State} (h : s.monitor.poll = some q) :
    roundFallsDue s = { s with monitor := { s.monitor with
      roundDue := s.monitor.roundDue + s.monitor.period * 1000 } } := by
  simp only [roundFallsDue, h, onMonitor]

/-- R79, R179: otherwise the round begins with the poll of H1. -/
theorem roundFallsDue_made {s : State} (h : s.monitor.poll = none) :
    let ms := s.cmd.shadow.elim 5 (·.pollMs)
    roundFallsDue s = { s with
      monitor := { s.monitor with
        period := ms, roundDue := s.now + ms * 1000
        poll := some { hinge := .h1, frame := 0x59#8, frameEnd := s.now + 20 } }
      pins := { s.pins with sensClk := .carrying, sensDat := .carrying } } := by
  have frame : pollFrame .h1 = 0x59#8 := by decide
  simp only [roundFallsDue, h, pollPeriod_eq, beginPoll, onMonitor, frame]

/-- Settles O28: the round at its due time, not made or begun. -/
theorem pollRoundFallsDue : Obligations.PollRoundFallsDue := by
  intro s hr hn hd
  have run : exec .pollRound s =
      .next (settleOutputs s (roundFallsDue { s with now := s.monitor.roundDue })) := by
    simp only [exec, execPollRound, hr.run, atTime_happens hd hn]
  refine ⟨fun q hq => ?_, fun hq => ?_⟩
  · rw [run, roundFallsDue_skipped (s := { s with now := s.monitor.roundDue }) hq]
  · rw [run, roundFallsDue_made (s := { s with now := s.monitor.roundDue }) hq]

end Sys2Proof.Machine
end

section
/-!
O29: the end of a poll (R79 to R85, R91, R179).
-/
namespace Sys2Proof.Machine

/-! ## HINGE_CHANGE and the fallback timer (R83, R91, R163) -/

/-- R163, R166: raising a kind marks the notice record exactly where the notice set changes. -/
theorem raiseKind_eq (k : NoticeKind) (n : NoticeUnit) : raiseKind k n = { n with
    set := n.set ||| kindBit k
    noticeWriter := if n.set ||| kindBit k = n.set then n.noticeWriter else writerChanged n.noticeWriter } := by
  have changes : n.set ||| kindBit k = n.set ↔ kindPending n.set k = true := by
    refine ⟨fun h => ?_, fun h => ?_⟩
    · rw [← h]; simp
    · have := congrArg NoticeUnit.set (raiseKind_spec k n)
      simpa [raiseKind, h] using this.symm
  rw [raiseKind_spec]
  simp only [changes]

/-- R83: a hinge's state has become `after`, and the hinge edge mode lets that raise HINGE_CHANGE. -/
def Raises (before after : HingeState) (s : State) : Prop :=
  after ≠ before ∧ (after = .lost ∨ ∃ tb, s.cmd.shadow = some tb ∧ tb.hingeEdge = .both)

/-- R83: what a change of a hinge state raises. -/
theorem noticeHinge_eq (before after : HingeState) (s : State) :
    (Raises before after s → noticeHinge before after s = raise .hingeChange s) ∧
      (¬ Raises before after s → noticeHinge before after s = s) := by
  have edge : hingeEdge s = .both ↔ ∃ tb, s.cmd.shadow = some tb ∧ tb.hingeEdge = .both := by
    unfold hingeEdge; cases s.cmd.shadow <;> simp
  unfold noticeHinge
  simp only [Raises, ← edge]
  refine ⟨fun ⟨changed, allowed⟩ => ?_, fun h => ?_⟩
  · rw [if_neg changed.symm, if_pos allowed]
  · by_cases changed : before = after
    · rw [if_pos changed]
    · rw [if_neg changed, if_neg fun allowed => h ⟨Ne.symm changed, allowed⟩]

section
variable (h : HingeId) (g : Hinge) (s : State)

/-- R83: what a hinge's new value raises. -/
theorem updateHinge_notice :
    (Raises (hingeOf h s.monitor).state g.state s → (updateHinge h g s).notice = raiseKind .hingeChange s.notice) ∧
      (¬ Raises (hingeOf h s.monitor).state g.state s → (updateHinge h g s).notice = s.notice) := by
  have kept : ∀ x, (checkFallback x).notice = x.notice := fun x => by rw [checkFallback_spec]
  obtain ⟨raised, silent⟩ := noticeHinge_eq (hingeOf h s.monitor).state g.state (onMonitor (setHinge h g) s)
  have notice : (updateHinge h g s).notice =
      (noticeHinge (hingeOf h s.monitor).state g.state (onMonitor (setHinge h g) s)).notice := by
    unfold updateHinge
    dsimp only
    split
    · rfl
    · rw [kept]
  rw [notice]
  exact ⟨fun hr => by rw [raised hr]; rfl, fun hr => by rw [silent hr]; rfl⟩

/-- R91: the fallback timer stays while a hinge keeps its state. -/
theorem updateHinge_fallback_kept (hs : g.state = (hingeOf h s.monitor).state) :
    (updateHinge h g s).monitor.fallback = s.monitor.fallback := by
  simp only [updateHinge, hs, noticeHinge, if_true]
  cases h <;> rfl

/-- R91: the fallback timer after a change of a hinge's state. -/
theorem updateHinge_fallback_changed (hs : g.state ≠ (hingeOf h s.monitor).state) :
    let m := setHinge h g s.monitor
    let both := m.h1.state = .present ∧ m.h2.state = .present
    let fallback := (updateHinge h g s).monitor.fallback
    (both → fallback = .idle) ∧
    (∀ tb, ¬ both → s.ctrl.state ≠ .loading → s.monitor.fallback = .idle → s.cmd.shadow = some tb →
      fallback = .running (s.now + tb.fallbackMs * 1000)) ∧
    (¬ both → s.ctrl.state = .loading ∨ s.monitor.fallback ≠ .idle → fallback = s.monitor.fallback) := by
  obtain ⟨x, hx⟩ : ∃ x, x = noticeHinge (hingeOf h s.monitor).state g.state (onMonitor (setHinge h g) s) := ⟨_, rfl⟩
  have blocks : x = { onMonitor (setHinge h g) s with notice := x.notice } := by
    rw [hx]; exact (noticeHinge_spec _ _ _).1
  have update : updateHinge h g s = checkFallback x := by simp only [updateHinge, if_neg hs.symm, hx]
  have fallback : (setHinge h g s.monitor).fallback = s.monitor.fallback := by cases h <;> rfl
  rw [update]
  have timer := checkFallback_fallback x
  have monitor : x.monitor = setHinge h g s.monitor := by rw [blocks]; rfl
  have ctrl : x.ctrl = s.ctrl := by rw [blocks]; rfl
  have cmd : x.cmd = s.cmd := by rw [blocks]; rfl
  have now : x.now = s.now := by rw [blocks]; rfl
  rw [monitor, ctrl, cmd, now, fallback] at timer
  exact timer

end

/-- R83, R163, R166: a hinge's new value changes the notice set and the notice writer alone. -/
theorem updateHinge_noticeUnit (h : HingeId) (g : Hinge) (s : State) :
    let n := (updateHinge h g s).notice
    n = { s.notice with
      set := n.set
      noticeWriter := if n.set = s.notice.set then s.notice.noticeWriter
        else writerChanged s.notice.noticeWriter } := by
  obtain ⟨raised, silent⟩ := updateHinge_notice h g s
  by_cases hr : Raises (hingeOf h s.monitor).state g.state s
  · rw [raised hr, raiseKind_eq]
  · simp only [silent hr, if_true]

/-- R79, R179: the lines and the poll once the poll of a hinge has ended. -/
theorem continueRound_polls (h : HingeId) (s : State) :
    (h = .h1 → (continueRound h s).monitor.poll = some { hinge := .h2, frame := 0x5B#8, frameEnd := s.now + 20 } ∧
      (continueRound h s).pins = { s.pins with sensClk := .carrying, sensDat := .carrying }) ∧
    (h = .h2 → (continueRound h s).monitor.poll = none ∧
      (continueRound h s).pins = { s.pins with sensClk := .released, sensDat := .released }) := by
  obtain ⟨-, -, first, second⟩ := continueRound_spec h s
  exact ⟨fun e => ⟨first e, by rw [e]; rfl⟩, fun e => ⟨(second e).1, by rw [e]; rfl⟩⟩

/-! ## Judging (R80, R81) -/

/-- R80, R81: a valid reply holds check byte, echo and VALID. -/
theorem replyIsValid_iff {h : HingeId} {f : ReplyFrame} : replyIsValid h f = true ↔
    f.b3 = f.b0 + f.b1 + f.b2 ∧ f.b0.extractLsb' 0 7 = (if h = .h1 then 0x2C#7 else 0x2D#7) ∧
      f.b2.getLsbD 7 = true := by
  have address : hingeAddress h = if h = .h1 then 0x2C#7 else 0x2D#7 := by cases h <;> rfl
  simp only [replyIsValid, replyCheckHolds, replyEcho, replyValid, Bool.and_eq_true, beq_iff_eq, address, and_assoc]

/-- R81, R82: a miss is counted and acts on its hinge. -/
theorem pollMiss_eq (h : HingeId) (s : State) : pollMiss h s =
    updateHinge h (hingeMiss (hingeOf h s.monitor)) { s with notice := { s.notice with
      counters := { s.notice.counters with misses := addCount 1 s.notice.counters.misses } } } := rfl

/-- R81, R82, R85: a valid reply counts its clamp, acts on its hinge, and matching runs. -/
theorem pollValid_eq (h : HingeId) (a : Nat) (s : State) : pollValid h a s =
    runMatching (updateHinge h (hingeValid (min 720 a) (hingeOf h s.monitor)) { s with notice := { s.notice with
      counters := { s.notice.counters with
        clamps := if 720 < a then addCount 1 s.notice.counters.clamps else s.notice.counters.clamps } } }) := by
  unfold pollValid
  by_cases ha : 720 < a
  · simp only [if_pos ha]; rfl
  · simp only [if_neg ha]; rfl

/-! ## Matching after a poll (R85) -/

/-- R85: matching needs both hinges PRESENT, outside LOADING. -/
theorem runMatching_idle {s : State}
    (h : ¬ (s.monitor.h1.state = .present ∧ s.monitor.h2.state = .present) ∨ s.ctrl.state = .loading) :
    runMatching s = s := by
  refine if_neg fun ⟨both, hl⟩ => ?_
  simp only [bothPresent, Bool.and_eq_true, beq_iff_eq] at both
  exact h.elim (· both) hl

/-- R86, R87, R88: matching looks at the hinges, the candidate, the settle timer, the controller, the shadow table and
the clock alone. -/
theorem runMatching_congr {s t : State} (h1 : t.monitor.h1 = s.monitor.h1) (h2 : t.monitor.h2 = s.monitor.h2)
    (candidate : t.monitor.candidate = s.monitor.candidate) (settle : t.monitor.settle = s.monitor.settle)
    (ctrl : t.ctrl = s.ctrl) (cmd : t.cmd = s.cmd) (now : t.now = s.now) :
    (runMatching t).monitor.candidate = (runMatching s).monitor.candidate ∧
      (runMatching t).monitor.settle = (runMatching s).monitor.settle := by
  have both : bothPresent t.monitor = bothPresent s.monitor := by simp only [bothPresent, h1, h2]
  have intended : intendedLayout t = intendedLayout s := by
    simp only [intendedLayout, activeNumber, targetNumber, ctrl]
  have monitor : t.monitor = { t.monitor with h1 := s.monitor.h1, h2 := s.monitor.h2 } := by rw [← h1, ← h2]
  have found : ∀ tb i, findCandidate tb i t.monitor = findCandidate tb i s.monitor := fun tb i => by
    rw [monitor]; rfl
  unfold runMatching
  rw [both, ctrl, cmd]
  split
  · split
    · exact ⟨candidate, settle⟩
    · simp only [settleOnMatch_eq, onMonitor, found, intended, settle, now, and_self]
  · exact ⟨candidate, settle⟩

/-! ## When a poll ends (R79, R81, R179) -/

section
variable {q : Poll} {s : State}

/-- R79, R81, R179: a reply ends its poll in time, or is turned away. -/
theorem sensorReply_runs (h : Released s) (hq : s.monitor.poll = some q) (start : Nat) (f : ReplyFrame) :
    let ends := q.frameEnd + if start ≤ 1000 then start + 80 else 1000
    (ends < s.now → exec (.sensorReply start f) s = .refused .outOfTimeOrder) ∧
    (s.now ≤ ends → (∀ due ∈ runningDues s, ends ≤ due) → exec (.sensorReply start f) s =
      .next (settleOutputs s (continueRound q.hinge (judgePoll q.hinge start f { s with now := ends })))) := by
  have run : exec (.sensorReply start f) s = exactlyAt (pollEndTime q start) s fun t =>
      continueRound q.hinge (judgePoll q.hinge start f t) := by
    simp only [exec, execSensorReply, h.run, hq]
  rw [run]
  exact ⟨fun past => exactlyAt_past past _, fun hn hd => exactlyAt_happens hd hn _⟩

/-- R79, R81: a poll without a reply ends at its limit, or is turned away. -/
theorem replyTimeout_runs (h : Released s) (hq : s.monitor.poll = some q) :
    (q.frameEnd + 1000 < s.now → exec .replyTimeout s = .refused .outOfTimeOrder) ∧
    (s.now ≤ q.frameEnd + 1000 → (∀ due ∈ runningDues s, q.frameEnd + 1000 ≤ due) → exec .replyTimeout s =
      .next (settleOutputs s (continueRound q.hinge (pollMiss q.hinge { s with now := q.frameEnd + 1000 })))) := by
  have run : exec .replyTimeout s = exactlyAt (q.frameEnd + replyLimit) s fun t =>
      continueRound q.hinge (pollMiss q.hinge t) := by
    simp only [exec, execReplyTimeout, h.run, hq]
  rw [run]
  exact ⟨fun past => exactlyAt_past past _, fun hn hd => exactlyAt_happens hd hn _⟩

/-- R81: a reply that begins in time and is valid is taken; any other poll ends as a miss. -/
theorem judgePoll_eq (h : HingeId) (start : Nat) (f : ReplyFrame) (s : State) :
    (start ≤ 1000 ∧ replyIsValid h f = true → judgePoll h start f s = pollValid h (replyAngle f) s) ∧
      (¬ (start ≤ 1000 ∧ replyIsValid h f = true) → judgePoll h start f s = pollMiss h s) := by
  unfold judgePoll pollReply
  refine ⟨fun ⟨hs, hv⟩ => ?_, fun hn => ?_⟩
  · exact (if_pos hs).trans (if_pos hv)
  · by_cases hs : start ≤ 1000
    · exact (if_pos hs).trans (if_neg fun hv => hn ⟨hs, hv⟩)
    · exact if_neg hs

end

/-! ## What the end of a poll leaves -/

/-- The part with the clock at the end `ends` of a poll and these counters. -/
def countedAt (counters : Counters) (ends : Nat) (s : State) : State :=
  { s with now := ends, notice := { s.notice with counters := counters } }

/-- The part with the clock at the end of a poll of `h`, these counters, and the hinge with its new value. -/
def hingeTook (h : HingeId) (g : Hinge) (counters : Counters) (ends : Nat) (s : State) : State :=
  updateHinge h g (countedAt counters ends s)

/-- R82, R91: the monitor has the hinge's new value, and a fallback timer that may have changed with it. -/
theorem hingeTook_monitor (h : HingeId) (g : Hinge) (counters : Counters) (ends : Nat) (s : State) :
    (hingeTook h g counters ends s).monitor = { setHinge h g s.monitor with
      fallback := (hingeTook h g counters ends s).monitor.fallback } := by
  obtain ⟨-, took, -⟩ := updateHinge_spec h g (countedAt counters ends s)
  exact took

/-- R82, R91: a hinge's new value leaves the candidate and the settle timer. -/
theorem hingeTook_choice (h : HingeId) (g : Hinge) (counters : Counters) (ends : Nat) (s : State) :
    (hingeTook h g counters ends s).monitor.candidate = s.monitor.candidate ∧
      (hingeTook h g counters ends s).monitor.settle = s.monitor.settle := by
  rw [hingeTook_monitor]
  cases h <;> exact ⟨rfl, rfl⟩

/-- The part once the poll of `h` has ended: matching's choice, the next poll, and the outputs settled. -/
def pollEnded (h : HingeId) (candidate : Option Nat) (settle : SettleTimer) (s w : State) : State :=
  settleOutputs s (continueRound h { w with monitor := { w.monitor with candidate := candidate, settle := settle } })

section
variable {h : HingeId} {g : Hinge} {counters : Counters} {ends : Nat} {candidate : Option Nat} {settle : SettleTimer}
  {s t : State} (ht : t = pollEnded h candidate settle s (hingeTook h g counters ends s))
include ht

/-- R79: the end of a poll concerns the monitor, the notice unit, the sensor lines and the clock. -/
theorem pollEnded_blocks :
    t = { s with monitor := t.monitor, notice := t.notice, pins := t.pins, now := t.now } ∧ t.now = ends := by
  refine ⟨?_, by simp [ht, pollEnded, hingeTook, countedAt]⟩
  apply State.eq_of_parts <;> simp [ht, pollEnded, hingeTook, countedAt]

/-- R79, R82, R85, R91: what the end of a poll leaves of the monitor. -/
theorem pollEnded_monitor : t.monitor = { setHinge h g s.monitor with
    fallback := (hingeTook h g counters ends s).monitor.fallback
    candidate := candidate, settle := settle, poll := t.monitor.poll } := by
  obtain ⟨-, round, -⟩ := continueRound_spec h { hingeTook h g counters ends s with
    monitor := { (hingeTook h g counters ends s).monitor with candidate := candidate, settle := settle } }
  rw [ht]
  exact round.trans <| congrArg (fun m : Monitor => { m with
    candidate := candidate, settle := settle
    poll := (pollEnded h candidate settle s (hingeTook h g counters ends s)).monitor.poll })
    (hingeTook_monitor h g counters ends s)

/-- R82: the hinge polled has its new value; the other hinge, the rounds and the override stay. -/
theorem pollEnded_hinges : hingeOf h t.monitor = g ∧ (∀ k, k ≠ h → hingeOf k t.monitor = hingeOf k s.monitor) ∧
    t.monitor.roundDue = s.monitor.roundDue ∧ t.monitor.period = s.monitor.period ∧
    t.monitor.override = s.monitor.override := by
  rw [pollEnded_monitor ht]
  cases h with
  | h1 => exact ⟨rfl, fun k hk => by cases k with | h1 => exact absurd rfl hk | h2 => rfl, rfl, rfl, rfl⟩
  | h2 => exact ⟨rfl, fun k hk => by cases k with | h1 => rfl | h2 => exact absurd rfl hk, rfl, rfl, rfl⟩

/-- R85, R88: the candidate and the settle timer. -/
theorem pollEnded_choice : t.monitor.candidate = candidate ∧ t.monitor.settle = settle := by
  rw [pollEnded_monitor ht]
  exact ⟨rfl, rfl⟩

/-- R79, R179: after the poll of H1 that of H2 begins, and after that of H2 the lines rest. -/
theorem pollEnded_polls :
    (h = .h1 → t.monitor.poll = some { hinge := .h2, frame := 0x5B#8, frameEnd := t.now + 20 } ∧
      t.pins = { s.pins with sensClk := .carrying, sensDat := .carrying }) ∧
    (h = .h2 → t.monitor.poll = none ∧ t.pins = { s.pins with sensClk := .released, sensDat := .released }) := by
  have now := (pollEnded_blocks ht).2
  have polls := continueRound_polls h { hingeTook h g counters ends s with
    monitor := { (hingeTook h g counters ends s).monitor with candidate := candidate, settle := settle } }
  have pins : (hingeTook h g counters ends s).pins = s.pins := by simp [hingeTook, countedAt]
  have clock : (hingeTook h g counters ends s).now = ends := by simp [hingeTook, countedAt]
  rw [now]
  simpa only [ht, pollEnded, settleOutputs_monitor, settleOutputs_pins, pins, clock] using polls

/-- R83, R163, R166: the notice unit after the end of a poll. -/
theorem pollEnded_notice :
    NoticeKept { s.notice with
      counters := t.notice.counters, set := t.notice.set
      noticeWriter := if t.notice.set = s.notice.set then s.notice.noticeWriter
        else writerChanged s.notice.noticeWriter } t.notice ∧
    t.notice.counters = counters ∧
    (Raises (hingeOf h s.monitor).state g.state s → t.notice.set = s.notice.set ||| kindBit .hingeChange) ∧
    (¬ Raises (hingeOf h s.monitor).state g.state s → t.notice.set = s.notice.set) := by
  obtain ⟨w, hw⟩ : ∃ w, w = hingeTook h g counters ends s := ⟨_, rfl⟩
  have unit : w.notice = { s.notice with
      counters := counters, set := w.notice.set
      noticeWriter := if w.notice.set = s.notice.set then s.notice.noticeWriter
        else writerChanged s.notice.noticeWriter } := by
    rw [hw]; exact updateHinge_noticeUnit h g _
  obtain ⟨raised, silent⟩ := updateHinge_notice h g (countedAt counters ends s)
  have notice : NoticeKept w.notice t.notice := by
    have settled := (settleOutputs_spec s (continueRound h { w with monitor := { w.monitor with
      candidate := candidate, settle := settle } })).2.1
    simpa [ht, pollEnded, ← hw] using settled
  have kinds : t.notice.set = w.notice.set := by rw [notice]
  have counted : t.notice.counters = counters := by rw [notice, unit]
  refine ⟨?_, counted, fun hr => ?_, fun hr => ?_⟩
  · rw [kinds, counted, ← unit]; exact notice
  · rw [kinds, hw, hingeTook, raised hr, raiseKind_eq, countedAt]
  · rw [kinds, hw, hingeTook, silent hr, countedAt]

/-- R91: the fallback timer after the end of a poll. -/
theorem pollEnded_fallback :
    let both := t.monitor.h1.state = .present ∧ t.monitor.h2.state = .present
    (g.state = (hingeOf h s.monitor).state → t.monitor.fallback = s.monitor.fallback) ∧
    (g.state ≠ (hingeOf h s.monitor).state →
      (both → t.monitor.fallback = .idle) ∧
      (∀ tb, ¬ both → s.ctrl.state ≠ .loading → s.monitor.fallback = .idle → s.cmd.shadow = some tb →
        t.monitor.fallback = .running (t.now + tb.fallbackMs * 1000)) ∧
      (¬ both → s.ctrl.state = .loading ∨ s.monitor.fallback ≠ .idle →
        t.monitor.fallback = s.monitor.fallback)) := by
  rw [pollEnded_monitor ht, (pollEnded_blocks ht).2]
  exact ⟨updateHinge_fallback_kept h g (countedAt counters ends s),
    updateHinge_fallback_changed h g (countedAt counters ends s)⟩

/-- R85 to R88: matching sees the end of a poll as it sees the hinge's new value. -/
theorem pollEnded_matching :
    let w := hingeTook h g counters ends s
    let x := runMatching { t with monitor := { t.monitor with
      candidate := s.monitor.candidate, settle := s.monitor.settle } }
    x.monitor.candidate = (runMatching w).monitor.candidate ∧ x.monitor.settle = (runMatching w).monitor.settle := by
  obtain ⟨candidate, settle⟩ := hingeTook_choice h g counters ends s
  refine runMatching_congr ?_ ?_ candidate.symm settle.symm ?_ ?_ ?_
  · rw [pollEnded_monitor ht, hingeTook_monitor]
  · rw [pollEnded_monitor ht, hingeTook_monitor]
  all_goals simp [ht, pollEnded, hingeTook, countedAt]

end

section
variable (h : HingeId) (ends : Nat) (s : State)

/-- R81, R82: a poll that ends as a miss. -/
theorem pollMiss_ended : settleOutputs s (continueRound h (pollMiss h { s with now := ends })) =
    pollEnded h s.monitor.candidate s.monitor.settle s (hingeTook h (hingeMiss (hingeOf h s.monitor))
      { s.notice.counters with misses := addCount 1 s.notice.counters.misses } ends s) := by
  obtain ⟨candidate, settle⟩ := hingeTook_choice h (hingeMiss (hingeOf h s.monitor))
    { s.notice.counters with misses := addCount 1 s.notice.counters.misses } ends s
  rw [← candidate, ← settle]
  rfl

/-- R81, R82, R85: a poll that ends with a valid reply of angle `a`. -/
theorem pollValid_ended (a : Nat) :
    let w := hingeTook h (hingeValid (min 720 a) (hingeOf h s.monitor)) { s.notice.counters with
      clamps := if 720 < a then addCount 1 s.notice.counters.clamps else s.notice.counters.clamps } ends s
    settleOutputs s (continueRound h (pollValid h a { s with now := ends })) =
      pollEnded h (runMatching w).monitor.candidate (runMatching w).monitor.settle s w := by
  intro w
  have judged : pollValid h a { s with now := ends } = runMatching w := pollValid_eq h a _
  rw [judged, pollEnded, ← runMatching_spec]

end

/-- Settles O29: the poll's end by `sensorReply_runs` and `replyTimeout_runs`, what every end leaves by the lemmas over
`pollEnded`, the hinge's new value by `hingeMiss_spec` and `hingeValid_spec`. -/
theorem pollEndActsOnItsHinge : Obligations.PollEndActsOnItsHinge := by
  intro q s hr hq h g pollsOn both kept missed answered
  have ended : ∀ {g' counters ends candidate settle t},
      t = pollEnded h candidate settle s (hingeTook h g' counters ends s) →
      t.now = ends ∧ pollsOn t ∧ kept t ∧ hingeOf h t.monitor = g' := by
    intro g' counters ends candidate settle t ht
    obtain ⟨blocks, now⟩ := pollEnded_blocks ht
    obtain ⟨notice, -, raised, silent⟩ := pollEnded_notice ht
    obtain ⟨same, changed⟩ := pollEnded_fallback ht
    obtain ⟨hinge, others, due, period, override⟩ := pollEnded_hinges ht
    rw [← hinge] at raised silent same changed
    exact ⟨now, pollEnded_polls ht,
      ⟨blocks, others, due, period, override, notice, ⟨raised, silent⟩, same, changed⟩, hinge⟩
  have misses : ∀ ends, let t := settleOutputs s (continueRound h (pollMiss h { s with now := ends }))
      t.now = ends ∧ pollsOn t ∧ kept t ∧ missed t := by
    intro ends t
    have ht := pollMiss_ended h ends s
    obtain ⟨now, polls, keeps, hinge⟩ := ended ht
    obtain ⟨-, counted, -⟩ := pollEnded_notice ht
    exact ⟨now, polls, keeps, hinge.trans (hingeMiss_spec g), counted, pollEnded_choice ht⟩
  have answers : ∀ a ends, let t := settleOutputs s (continueRound h (pollValid h a { s with now := ends }))
      t.now = ends ∧ pollsOn t ∧ kept t ∧ answered a t := by
    intro a ends t
    have ht := pollValid_ended h ends s a
    obtain ⟨now, polls, keeps, hinge⟩ := ended ht
    obtain ⟨-, counted, -⟩ := pollEnded_notice ht
    obtain ⟨candidate, settle⟩ := pollEnded_choice ht
    obtain ⟨matched, timed⟩ := pollEnded_matching ht
    refine ⟨now, polls, keeps, hinge.trans (hingeValid_spec _ g), counted,
      fun _ _ => ⟨candidate.trans matched.symm, settle.trans timed.symm⟩, fun unmatched => ?_⟩
    have ctrl : t.ctrl = s.ctrl := by simp [t]
    have idle := runMatching_idle (s := { t with monitor := { t.monitor with
      candidate := s.monitor.candidate, settle := s.monitor.settle } })
      (unmatched.imp_right (congrArg Controller.state ctrl).trans)
    rw [idle] at matched timed
    exact ⟨candidate.trans matched.symm, settle.trans timed.symm⟩
  constructor
  · intro start f ends valid
    obtain ⟨late, inTime⟩ := sensorReply_runs hr hq start f
    obtain ⟨taken, notTaken⟩ := judgePoll_eq h start f { s with now := ends }
    have isValid : start ≤ 1000 ∧ replyIsValid h f = true ↔ valid := and_congr_right fun _ => replyIsValid_iff
    rw [isValid] at taken notTaken
    refine ⟨late, fun hn hd => ⟨_, inTime hn hd, ?_⟩⟩
    by_cases hv : valid
    · rw [taken hv]
      obtain ⟨now, polls, keeps, answer⟩ := answers (replyAngle f) ends
      exact ⟨now, polls, keeps, fun _ => answer, fun invalid => absurd hv invalid⟩
    · rw [notTaken hv]
      obtain ⟨now, polls, keeps, miss⟩ := misses ends
      exact ⟨now, polls, keeps, fun held => absurd held hv, fun _ => miss⟩
  · obtain ⟨late, inTime⟩ := replyTimeout_runs hr hq
    exact ⟨late, fun hn hd => ⟨_, inTime hn hd, misses _⟩⟩

end Sys2Proof.Machine
end

section
/-!
O57: SCAN_BANK and PANEL_ENABLE are changed by a flip alone, and no event makes two (R114, R116).
-/
namespace Sys2Proof.Machine

/-! ## What leaves the bank and PANEL_ENABLE alone -/

section
variable (s : State)

/-- R106: a commit changes neither; nor does it change the active record. -/
@[simp] theorem beginTransition_bank (d : DrainKind) (r : RecordCopy) (o : Option RecordCopy) :
    (beginTransition d r o s).ctrl.frontBank = s.ctrl.frontBank ∧
      (beginTransition d r o s).ctrl.panelEnable = s.ctrl.panelEnable ∧
      (beginTransition d r o s).ctrl.active = s.ctrl.active := by
  rw [(beginTransition_spec d r o s).1.ctrl]
  exact ⟨rfl, rfl, rfl⟩

@[simp] theorem commitLayout_bank (n : Nat) : (commitLayout n s).ctrl.frontBank = s.ctrl.frontBank ∧
    (commitLayout n s).ctrl.panelEnable = s.ctrl.panelEnable ∧ (commitLayout n s).ctrl.active = s.ctrl.active := by
  unfold commitLayout
  (repeat' split) <;> simp [commitRecord]

@[simp] theorem resolveSlot_bank : (resolveSlot s).ctrl.frontBank = s.ctrl.frontBank ∧
    (resolveSlot s).ctrl.panelEnable = s.ctrl.panelEnable ∧ (resolveSlot s).ctrl.active = s.ctrl.active := by
  unfold resolveSlot
  split <;> simp

@[simp] theorem layoutRequest_bank (n : Nat) : (layoutRequest n s).ctrl.frontBank = s.ctrl.frontBank ∧
    (layoutRequest n s).ctrl.panelEnable = s.ctrl.panelEnable := by
  unfold layoutRequest
  simp only [slotRequest_eq]
  (repeat' split) <;> simp [slotTakes]

@[simp] theorem settleExpires_bank (n : Nat) : (settleExpires n s).ctrl.frontBank = s.ctrl.frontBank ∧
    (settleExpires n s).ctrl.panelEnable = s.ctrl.panelEnable := by
  unfold settleExpires
  dsimp only
  split <;> simp

@[simp] theorem fallbackExpires_bank : (fallbackExpires s).ctrl.frontBank = s.ctrl.frontBank ∧
    (fallbackExpires s).ctrl.panelEnable = s.ctrl.panelEnable := by
  unfold fallbackExpires
  dsimp only
  (repeat' split) <;> simp

@[simp] theorem endLoadReplaced_bank (t : Table) : (endLoadReplaced t s).ctrl.frontBank = s.ctrl.frontBank ∧
    (endLoadReplaced t s).ctrl.panelEnable = s.ctrl.panelEnable := by
  unfold endLoadReplaced
  dsimp only
  split <;> simp [commitRecord]

/-- R157: however a load ends. -/
@[simp] theorem endLoad_bank (l : TableLoad) : (endLoad l s).ctrl.frontBank = s.ctrl.frontBank ∧
    (endLoad l s).ctrl.panelEnable = s.ctrl.panelEnable := by
  unfold endLoad
  dsimp only
  (repeat' split) <;> simp [endLoadRejected, endLoadKept, endLoadTaken]

@[simp] theorem loadAnswer_bank (l : TableLoad) (a : Answer) : (loadAnswer l a s).ctrl.frontBank = s.ctrl.frontBank ∧
    (loadAnswer l a s).ctrl.panelEnable = s.ctrl.panelEnable := by
  unfold loadAnswer
  dsimp only
  (repeat' split) <;> simp

/-- R118: RESTART's commit leaves the front bank on the panel. -/
@[simp] theorem takeRestart_bank (q : Byte) : (takeRestart q s).ctrl.frontBank = s.ctrl.frontBank ∧
    (takeRestart q s).ctrl.panelEnable = s.ctrl.panelEnable := by
  unfold takeRestart
  split
  · simp [restartLoading]
  · simp [restartRunning, restartCommit, monitorRestart, abandonLoad]

/-- R154: whatever the code of a command. -/
@[simp] theorem runCommand_bank (q c : Byte) (a : BitVec 16) : (runCommand q c a s).ctrl.frontBank = s.ctrl.frontBank ∧
    (runCommand q c a s).ctrl.panelEnable = s.ctrl.panelEnable := by
  unfold runCommand takePublish takeForce
  (repeat' split) <;> simp [beginLoad, monitorForce]

@[simp] theorem reportWatched_bank (p : Port) (r : Request) :
    (reportWatched p r s).ctrl.frontBank = s.ctrl.frontBank ∧
      (reportWatched p r s).ctrl.panelEnable = s.ctrl.panelEnable := by
  unfold reportWatched reportCommandWord
  dsimp only
  (repeat' split) <;> simp

@[simp] theorem admitRequest_bank (p : Port) (r : Request) :
    (admitRequest p r s).ctrl.frontBank = s.ctrl.frontBank ∧
      (admitRequest p r s).ctrl.panelEnable = s.ctrl.panelEnable := by
  unfold admitRequest acceptRequest routeSystem
  (repeat' split) <;> simp

@[simp] theorem presentRequest_bank (p : Port) (r : Request) :
    (presentRequest p r s).ctrl.frontBank = s.ctrl.frontBank ∧
      (presentRequest p r s).ctrl.panelEnable = s.ctrl.panelEnable := by
  unfold presentRequest
  split <;> simp

@[simp] theorem admitWaiting_bank (p : Port) : (admitWaiting p s).ctrl.frontBank = s.ctrl.frontBank ∧
    (admitWaiting p s).ctrl.panelEnable = s.ctrl.panelEnable := by
  unfold admitWaiting
  split <;> simp

end

/-- R8: the end of a wait. -/
theorem endWait_bank {p : Port} {s u : State} (h : endWait p s = some u) :
    u.ctrl.frontBank = s.ctrl.frontBank ∧ u.ctrl.panelEnable = s.ctrl.panelEnable := by
  unfold endWait at h
  repeat' split at h
  all_goals cases h
  all_goals simp

/-! ## The flip -/

/-- R114, R116: from `s` to `t` SCAN_BANK and PANEL_ENABLE stand, or a flip of the transition in `s` has been taken. -/
def FlipsOnce (s t : State) : Prop :=
  (t.ctrl.frontBank = s.ctrl.frontBank ∧ t.ctrl.panelEnable = s.ctrl.panelEnable) ∨
    (inTransition s.ctrl.state = true ∧ t.ctrl.frontBank = otherBank s.ctrl.frontBank ∧
      t.ctrl.panelEnable = true ∧ t.ctrl.active = s.ctrl.target ∧ kindPending t.notice.set .layoutActive = true)

theorem FlipsOnce.of_ctrl {s t : State} (h : t.ctrl = s.ctrl) : FlipsOnce s t := .inl (by rw [h]; exact ⟨rfl, rfl⟩)

/-- What comes before the flip may go on within the transition. -/
theorem FlipsOnce.after {s t u : State} (g : FlipsOnce t u)
    (h : ∃ w, ∃ x, (inTransition x = true → inTransition s.ctrl.state = true) ∧
      t.ctrl = { s.ctrl with oldWrites := w, state := x }) : FlipsOnce s u := by
  obtain ⟨w, x, inside, ctrl⟩ := h
  unfold FlipsOnce at g
  rw [ctrl] at g
  exact g.imp_right fun ⟨hx, rest⟩ => ⟨inside hx, rest⟩

theorem FlipsOnce.after_eq {s t u : State} (g : FlipsOnce t u) (h : t.ctrl = s.ctrl) : FlipsOnce s u :=
  g.after ⟨_, _, id, h⟩

/-- What comes after the flip leaves the controller alone and keeps the kinds raised. -/
theorem FlipsOnce.next {s t u : State} (h : FlipsOnce s t) (hc : u.ctrl = t.ctrl)
    (hk : kindPending t.notice.set .layoutActive = true → kindPending u.notice.set .layoutActive = true) :
    FlipsOnce s u := by
  unfold FlipsOnce
  rw [hc]
  exact h.imp_right fun ⟨hx, hb, hp, ha, hl⟩ => ⟨hx, hb, hp, ha, hk hl⟩

/-- R114, R115: the flip itself; a commit of the pending slot keeps what it has set. -/
theorem flip_flips {s : State} (h : inTransition s.ctrl.state = true) : FlipsOnce s (flip s) := by
  have raised := (flip_spec s).2.1
  have resolved := resolveSlot_bank (flipped s)
  rw [← flip_eq] at resolved
  obtain ⟨bank, panel, active⟩ := resolved
  exact .inr ⟨h, bank, panel, active, raised⟩

theorem completionTest_flips (s : State) : FlipsOnce s (completionTest s) := by
  rw [completionTest_spec]
  split
  · rename_i h
    split
    · exact (flip_flips rfl).after ⟨_, _, fun _ => by rw [h.1]; rfl, rfl⟩
    · exact .inl ⟨rfl, rfl⟩
  · exact .of_ctrl rfl

/-- R107, R108: the drain's end comes in DRAINING, within the transition. -/
theorem leaveOldWrites_flips (key : Key) (s : State) : FlipsOnce s (leaveOldWrites key s) := by
  unfold leaveOldWrites enterRelocating
  dsimp only
  split
  · split
    · rename_i h
      have draining : s.ctrl.state = .draining := h.1
      exact (completionTest_flips _).after ⟨s.ctrl.oldWrites.filter (· ≠ key), .relocating,
        fun _ => by rw [draining]; rfl, by simp⟩
    · exact .inl ⟨rfl, rfl⟩
  · exact .of_ctrl rfl

theorem sendResponse_flips (p : Port) (rr : ReadyResponse) (s : State) : FlipsOnce s (sendResponse p rr s) := by
  unfold sendResponse
  dsimp only
  generalize hu : reportSent p rr _ = u
  have reported : u.ctrl = s.ctrl := by simp [← hu, dropContext]
  exact ((leaveOldWrites_flips (p, rr.response.tag) u).after_eq reported).next (by simp) (by simp)

theorem rowWriteAnswered_flips (b : BufferId) (w : Writing) (a : Answer) (s : State) :
    FlipsOnce s (rowWriteAnswered b w a s) := by
  have counted : (if (answerOk a || w.failure) = true then s else countMemoryError s).ctrl = s.ctrl := by split <;> rfl
  unfold rowWriteAnswered endTile
  dsimp only
  generalize (if (answerOk a || w.failure) = true then s else countMemoryError s) = u at counted ⊢
  split
  · exact (completionTest_flips _).after_eq (by simp [counted])
  · exact .of_ctrl counted

theorem dropAnswer_flips (f : InFlight) (s : State) : FlipsOnce s (dropAnswer f s) := by
  unfold dropAnswer discardAnswered
  repeat' split
  · exact .of_ctrl rfl
  · exact (completionTest_flips _).after_eq (by simp)
  · exact .of_ctrl rfl
  · exact .of_ctrl rfl
  · exact .of_ctrl rfl
  · exact .of_ctrl rfl

theorem takeAwaitedFlip_flips (s : State) : FlipsOnce s (takeAwaitedFlip s) := by
  unfold takeAwaitedFlip
  split
  · rename_i h
    exact flip_flips (by rw [h]; rfl)
  · exact .of_ctrl rfl

/-- R122: the test of a panel's return removes no kind. -/
theorem checkReturn_keepsKind {s : State} {k : NoticeKind} (h : kindPending s.notice.set k = true) :
    kindPending (checkReturn s).notice.set k = true := by
  obtain ⟨-, -, -, -, -, -, -, kinds⟩ := checkReturn_spec s
  exact (kinds k).2 (.inl h)

theorem frameStarts_flips (s : State) : FlipsOnce s (frameStarts s) :=
  (takeAwaitedFlip_flips s).next (by simp [frameStarts])
    fun h => checkReturn_keepsKind (by rwa [countBoundary_set])

theorem lossTimerExpires_flips (s : State) : FlipsOnce s (lossTimerExpires s) := by
  unfold lossTimerExpires
  dsimp only
  split
  · exact .of_ctrl rfl
  · exact (takeAwaitedFlip_flips _).after_eq rfl

/-- R114, R116: an event takes one flip or none. -/
theorem Event.flips {c : Instr} {s u : State} (e : Event s c u) : FlipsOnce s u := by
  cases e with
  | presented => exact .inl (by simp)
  | waitEnds h => exact .inl (endWait_bank h)
  | sent => exact sendResponse_flips _ _ s
  | granted _ h => exact .of_ctrl (requesterIssue_issued h).ctrl
  | rowWriteAnswer => exact (rowWriteAnswered_flips _ _ _ _).after_eq rfl
  | discardedAnswer => exact (dropAnswer_flips _ _).after_eq rfl
  | fragmentAnswer | forwardedAnswer | rowReadAnswer | recordWriteAnswer | responseWriteAnswer | countsWriteAnswer =>
    exact .of_ctrl (by simp [popInFlight])
  | frameStart => exact (frameStarts_flips _).after_eq rfl
  | lossTimer => exact (lossTimerExpires_flips _).after_eq rfl
  | sensorReply => exact .of_ctrl (by simp only [judgePoll]; split <;> simp [clockAt])
  | pollRound | replyTimeout => exact .of_ctrl (by simp [clockAt])
  | loaderReadAnswer | settleTimer | fallbackTimer => exact .inl (by simp [popInFlight, clockAt])
  | bootHead | bootBody => exact .of_ctrl (by simp)
  | bootCheck => exact .inl (by simp [checkEnds, bootCommit])

theorem otherBank_ne (b : Bank) : otherBank b ≠ b := by cases b <;> nofun

/-- Settles O57: a command takes one flip or none (`Event.flips`), and within a transition there is a target. -/
theorem onlyAFlipChangesTheBank : Obligations.OnlyAFlipChangesTheBank := by
  refine ⟨⟨rfl, fun s t h => by rw [resetNRelease_next h]; rfl⟩, fun c s t right hc h => ?_⟩
  have flips : FlipsOnce s t := by
    rcases exec_event h with rfl | rfl | ⟨u, e, rfl⟩
    · exact .of_ctrl (by rw [resetNAssert_next h])
    · exact absurd rfl hc
    · exact e.flips.next rfl (by simp)
  rcases flips with ⟨bank, panel⟩ | ⟨inside, bank, panel, active, raised⟩
  · exact ⟨fun on => panel.trans on, fun _ => panel, fun changed => absurd bank changed⟩
  · refine ⟨fun _ => panel, fun same => absurd (bank.symm.trans same) (otherBank_ne _), fun _ => ?_⟩
    exact ⟨active, right.records.1.2 inside, panel, raised⟩

end Sys2Proof.Machine
end

section
/-!
O34, O36: the loss timer's expiry and the beginning of a table load (R104, R113, R120, R122, R155).
-/
namespace Sys2Proof.Machine

/-- R120: the loss timer expires at its due time. -/
theorem lossTimerExpiry_runs {due : Nat} {s : State} (h : Released s) (ht : s.frame.lossTimer = some due)
    (hd : ∀ d ∈ runningDues s, due ≤ d) :
    exec .lossTimerExpiry s = .next (settleOutputs s (lossTimerExpires (clockAt due s))) := by
  have first : noneDueBefore due s = true := by simpa [noneDueBefore] using hd
  simp only [exec, execLossTimerExpiry, h.run, ht, atTime, first, if_true, happens]

/-- R120, R122: the part with the panel judged LOST, before an awaited flip is taken. -/
def judgedLost (s : State) : State :=
  raise .panelTiming { s with frame := { s.frame with lossTimer := none, panel := .lost } }

/-- R120, R122: a PRESENT panel is judged LOST, and an awaited flip is taken then; a LOST one stays as it is. -/
theorem lossTimerExpires_cases (s : State) :
    (s.frame.panel = .present → lossTimerExpires s = takeAwaitedFlip (judgedLost s)) ∧
    (s.frame.panel = .lost → lossTimerExpires s = { s with frame := { s.frame with lossTimer := none } }) := by
  unfold lossTimerExpires
  exact ⟨fun h => by simp only [onFrame, h, judgedLost], fun h => by simp only [onFrame, h]⟩

/-- R113, R114, R115: the flip is awaited in FLIP_WAIT alone. -/
theorem takeAwaitedFlip_cases (s : State) : (s.ctrl.state ≠ .flipWait → takeAwaitedFlip s = s) ∧
    (s.ctrl.state = .flipWait → takeAwaitedFlip s = flip s ∧ SlotResolved (flipped s) (takeAwaitedFlip s)) := by
  unfold takeAwaitedFlip
  refine ⟨fun h => if_neg h, fun h => ?_⟩
  rw [if_pos h]
  exact ⟨rfl, flip_eq s ▸ resolveSlot_spec (flipped s)⟩

/-- Settles O36: PUBLISH is taken by `takePublish`, in its branch that begins a load. -/
theorem publishBeginsALoad : Obligations.PublishBeginsALoad := by
  intro p tag seq arg s hr ht hne hs hl
  have run : exec (.publish p tag seq arg) s =
      .next (settleOutputs s (takePublish seq (taking p (commandRequest tag seq 0x01 arg) seq s))) :=
    present_command_new hr ht seq 0x01 arg hne
  have idle : ¬ (commandBusy (taking p (commandRequest tag seq 0x01 arg) seq s) = true ∨
      (taking p (commandRequest tag seq 0x01 arg) seq s).ctrl.state ≠ .steady) := by
    simp [commandBusy, hs, hl]
  rw [run, takePublish, if_neg idle]
  simp [beginLoad, onCtrl, onCmd, taking, newLoad, tableAreaBase]

end Sys2Proof.Machine

namespace Sys2Proof

open Machine

/-- Settles O34: the two cases of the panel, and of the awaited flip. -/
theorem lossTimerExpires : Obligations.LossTimerExpires := by
  intro due s hr ht hn hd ran judged
  obtain ⟨present, lost⟩ := lossTimerExpires_cases { s with now := due }
  obtain ⟨stays, flips⟩ := takeAwaitedFlip_cases (judgedLost { s with now := due })
  rw [lossTimerExpiry_runs hr ht hd, clockAt, Nat.max_eq_right hn]
  refine ⟨fun hp hs => ?_, fun hp hs => ⟨_, (flips hs).2, by rw [present hp]⟩, fun hp => by rw [lost hp]⟩
  rw [present hp, stays hs]
  rfl

end Sys2Proof
end

section
/-!
O32, O33: the flip at a FRAME_START and as panel timing is lost, and what a FRAME_START counts (R112 to R116, R120 to
R122, R169).
-/
namespace Sys2Proof.Machine

/-! ## Where the flip is taken (R112 to R115) -/

/-- R121: a FRAME_START before anything that runs falls due. -/
theorem frameStart_runs {elapsed : Nat} {s : State} (h : Released s)
    (hd : ∀ due ∈ runningDues s, s.now + elapsed ≤ due) :
    exec (.frameStart elapsed) s = .next (settleOutputs s (frameStarts { s with now := s.now + elapsed })) := by
  simp only [exec, execFrameStart, h.run, atTime_happens hd (Nat.le_add_right _ _)]

/-- R121: what follows the flip at a FRAME_START changes the notice unit and the frame timing monitor alone. -/
theorem frameStarts_eq (s : State) : frameStarts s =
    { takeAwaitedFlip s with frame := (frameStarts s).frame, notice := (frameStarts s).notice } := by
  apply State.eq_of_parts <;> simp [frameStarts]

/-- R113: in FLIP_WAIT a FRAME_START, and the loss timer's expiry on a PRESENT panel, take the flip of the part `u` that
the time and the loss have been noted in; what follows keeps the kinds raised. -/
theorem awaitedFlip_runs {c : Instr} {s : State} (hr : Released s) (hs : s.ctrl.state = .flipWait)
    (hc : (∃ elapsed, c = .frameStart elapsed ∧ ∀ due ∈ runningDues s, s.now + elapsed ≤ due) ∨
      (∃ due, c = .lossTimerExpiry ∧ s.frame.panel = .present ∧ s.frame.lossTimer = some due ∧
        ∀ d ∈ runningDues s, due ≤ d)) :
    ∃ u t, u = { s with now := u.now, frame := u.frame, notice := u.notice } ∧ exec c s = .next t ∧
      t = { flip u with frame := t.frame, notice := t.notice } ∧
      ∀ k, kindPending (flip u).notice.set k = true → kindPending t.notice.set k = true := by
  rcases hc with ⟨elapsed, rfl, hd⟩ | ⟨due, rfl, hp, ht, hd⟩
  · have flips := ((takeAwaitedFlip_cases { s with now := s.now + elapsed }).2 hs).1
    refine ⟨{ s with now := s.now + elapsed }, _, rfl, frameStart_runs hr hd, ?_, fun k hk => ?_⟩
    · rw [(settleOutputs_spec _ _).1, frameStarts_eq, flips]
    · rw [settleOutputs_set]
      exact checkReturn_keepsKind (by rwa [countBoundary_set, flips])
  · have expires := (lossTimerExpires_cases (clockAt due s)).1 hp
    rw [((takeAwaitedFlip_cases (judgedLost (clockAt due s))).2 hs).1] at expires
    refine ⟨judgedLost (clockAt due s), _, rfl, lossTimerExpiry_runs hr ht hd, ?_, fun k hk => ?_⟩
    · rw [expires]
      exact (settleOutputs_spec _ _).1
    · rwa [settleOutputs_set, expires]

/-- Settles O33: the flip of the part that the event finds by `flip_spec`, the slot's resolution by `flip_eq`; the
completion test by `completionTest_spec`. -/
theorem flipExchangesTheBanks : Obligations.FlipExchangesTheBanks := by
  refine ⟨?_, ?_⟩
  · intro c s hr hs hc turned
    obtain ⟨u, t, hu, run, ht, kinds⟩ := awaitedFlip_runs hr hs hc
    obtain ⟨others, active, hold, empty, dropped, committed⟩ := flip_spec u
    have slot : u.ctrl = s.ctrl := by rw [hu]
    have engine : u.engine = s.engine := by rw [hu]
    have cmd : u.cmd = s.cmd := by rw [hu]
    have writes : outstandingWrites u = outstandingWrites s := outstandingWrites_congr (by rw [hu])
    have ctrl' : t.ctrl = (flip u).ctrl := by rw [ht]
    have engine' : t.engine = (flip u).engine := by rw [ht]
    rw [slot, ← ctrl', ← engine', engine] at empty
    rw [slot, cmd, ← ctrl', ← engine', engine] at dropped
    rw [slot, cmd, writes, ← ctrl'] at committed
    refine ⟨t, run, kinds _ active, ?_, by rw [engine', hold, engine], empty, dropped,
      fun n tb r hn htb hrec => ?_, u, flip u, hu, flip_eq u ▸ resolveSlot_spec (flipped u), ctrl', engine'⟩
    · rw [ht]
      apply State.eq_of_parts <;> simp <;> rw [hu]
    · obtain ⟨commits, begun⟩ := committed n tb r hn htb hrec
      exact ⟨commits, kinds _ begun⟩
  · intro s complete waits
    have test := completionTest_spec s
    have whole : relocationComplete s.engine = true ↔ complete := relocationComplete_iff _
    refine ⟨fun h => ?_, fun hs hc hp => ?_, fun hs hc hp => ?_⟩
    · rw [test, if_neg fun ⟨hs, hc⟩ => h.elim (· hs) (· (whole.1 hc))]
    · rw [test, if_pos ⟨hs, whole.2 hc⟩, if_neg (by rw [hp]; nofun)]
    · rw [test, if_pos ⟨hs, whole.2 hc⟩, if_pos hp, flip_eq]
      exact resolveSlot_spec (flipped waits)

end Sys2Proof.Machine
end

section
/-!
O32: what a FRAME_START counts, and the panel's return (R120 to R122, R169).
-/
namespace Sys2Proof.Machine

/-! ## The counts (R169) -/

/-- R106, R131: a commit leaves the frame count and the counts write alone. -/
theorem beginTransition_counts (d : DrainKind) (r : RecordCopy) (o : Option RecordCopy) (s : State) :
    (beginTransition d r o s).notice.frameCount = s.notice.frameCount ∧
      (beginTransition d r o s).notice.countsNext = s.notice.countsNext := by
  obtain ⟨map, -, -, begun⟩ := (beginTransition_spec d r o s).1.begun
  rw [begun, (takeTiles_spec _).2.2.2.2.1]
  exact ⟨rfl, rfl⟩

theorem resolveSlot_counts (s : State) : (resolveSlot s).notice.frameCount = s.notice.frameCount ∧
    (resolveSlot s).notice.countsNext = s.notice.countsNext := by
  unfold resolveSlot commitLayout commitRecord
  repeat' split
  · exact ⟨rfl, rfl⟩
  · exact ⟨rfl, rfl⟩
  · exact ⟨rfl, rfl⟩
  · exact beginTransition_counts _ _ _ _

/-- R114, R115: so does the flip with the slot's resolution. -/
theorem takeAwaitedFlip_counts (s : State) : (takeAwaitedFlip s).notice.frameCount = s.notice.frameCount ∧
    (takeAwaitedFlip s).notice.countsNext = s.notice.countsNext := by
  unfold takeAwaitedFlip
  split
  · rw [flip_eq]
    obtain ⟨count, next⟩ := resolveSlot_counts (flipped s)
    exact ⟨count.trans (by simp [flipped, raiseKind_spec]), next.trans (by simp [flipped, raiseKind_spec])⟩
  · exact ⟨rfl, rfl⟩

/-- R169: one counter of a waiting counts write that absorbs a transfer. -/
theorem absorbCounter_spec (w c : Counter) : (absorbCounter w c).value = min 65535 (w.value + c.value) ∧
    ((absorbCounter w c).saturated = true ↔
      w.saturated = true ∨ c.saturated = true ∨ 65535 ≤ w.value + c.value) := by
  refine ⟨rfl, ?_⟩
  have capped : min 65535 (w.value + c.value) = 65535 ↔ 65535 ≤ w.value + c.value := by omega
  simp only [absorbCounter, Bool.or_eq_true, beq_iff_eq, capped, or_assoc]

/-- R169: the frame count and the counts at a boundary, by the report interval: 0 (log 15), not reached, and reached. -/
theorem countBoundary_cases (s : State) :
    let N := s.cmd.shadow.elim 0 (·.report)
    let n := (countBoundary s).notice
    (N = 0 → n = { s.notice with frameCount := 0 }) ∧
    (0 < N → s.notice.frameCount + 1 < N → n = { s.notice with frameCount := s.notice.frameCount + 1 }) ∧
    (0 < N → N ≤ s.notice.frameCount + 1 → n = transferCounts [] s.notice) := by
  have interval : reportInterval s = s.cmd.shadow.elim 0 (·.report) := by
    unfold reportInterval
    cases s.cmd.shadow <;> rfl
  dsimp only
  rw [← interval]
  unfold countBoundary
  refine ⟨fun h => ?_, fun h hn => ?_, fun h hn => ?_⟩
  · rw [if_pos h]; rfl
  · rw [if_neg (Nat.ne_of_gt h), if_neg (Nat.not_le.2 hn)]; rfl
  · rw [if_neg (Nat.ne_of_gt h), if_pos hn]; rfl

/-- R169: whichever of them, the boundary rewrites the frame count, the counters and the counts write alone. -/
theorem countBoundary_notice (s : State) : (countBoundary s).notice = { s.notice with
    counters := (countBoundary s).notice.counters, frameCount := (countBoundary s).notice.frameCount
    countsNext := (countBoundary s).notice.countsNext } := by
  unfold countBoundary transferCounts
  dsimp only
  repeat' split
  all_goals rfl

/-! ## The panel's return (R121, R122) -/

/-- R163: raising a kind changes the set exactly where the kind was not pending. -/
theorem raiseKind_writer (k : NoticeKind) (n : NoticeUnit) : raiseKind k n = { n with
    set := n.set ||| kindBit k
    noticeWriter := if n.set ||| kindBit k = n.set then n.noticeWriter else writerChanged n.noticeWriter } := by
  have pending : kindPending n.set k = true ↔ n.set ||| kindBit k = n.set := by
    constructor
    · intro h
      have same : raiseKind k n = n := if_pos h
      rw [raiseKind_spec] at same
      exact congrArg NoticeUnit.set same
    · intro h
      rw [← h]
      simp
  rw [raiseKind_spec]
  simp only [pending]

/-- R121, R122: the notice unit after the test of a LOST panel's return. -/
theorem checkReturn_notice (s : State) :
    let raises := (s.frame.panel = .lost ∧ ∃ last, s.frame.lastStart = some last ∧
      s.now - last < 2 * s.cmd.shadow.elim 8333 (·.framePeriod)) ∧ ∃ tb, s.cmd.shadow = some tb ∧ tb.panelEdge = .both
    (raises → (checkReturn s).notice = raiseKind .panelTiming s.notice) ∧
      (¬ raises → (checkReturn s).notice = s.notice) := by
  have period : framePeriod s = s.cmd.shadow.elim 8333 (·.framePeriod) := by
    unfold framePeriod
    cases s.cmd.shadow <;> rfl
  have edge : panelEdge s = .both ↔ ∃ tb, s.cmd.shadow = some tb ∧ tb.panelEdge = .both := by
    unfold panelEdge
    cases s.cmd.shadow <;> simp
  dsimp only
  rw [← period, ← edge]
  unfold checkReturn
  split
  · rename_i last hp hl
    simp only [hp, hl, true_and, Option.some.injEq, exists_eq_left']
    refine ⟨fun ⟨back, both⟩ => by rw [if_pos back, if_pos both]; rfl, fun h => ?_⟩
    split
    · rename_i back
      rw [if_neg fun both => h ⟨back, both⟩]
      rfl
    · rfl
  · rename_i h
    exact ⟨fun ⟨⟨hp, last, hl, _⟩, _⟩ => absurd hl (h last hp), fun _ => rfl⟩

/-- R121, R169: after the boundary's count and the panel's test the notice unit differs in the counts, the notice set
and its writer alone. -/
theorem boundary_notice (u : State) :
    let n := (checkReturn (countBoundary u)).notice
    n = { u.notice with
      counters := n.counters, frameCount := n.frameCount, countsNext := n.countsNext, set := n.set
      noticeWriter :=
        if n.set = u.notice.set then u.notice.noticeWriter else writerChanged u.notice.noticeWriter } := by
  obtain ⟨raises, stays⟩ := checkReturn_notice (countBoundary u)
  dsimp only
  by_cases h : ((countBoundary u).frame.panel = .lost ∧ ∃ last, (countBoundary u).frame.lastStart = some last ∧
      (countBoundary u).now - last < 2 * (countBoundary u).cmd.shadow.elim 8333 (·.framePeriod)) ∧
      ∃ tb, (countBoundary u).cmd.shadow = some tb ∧ tb.panelEdge = .both
  · rw [raises h, raiseKind_writer, countBoundary_notice]
  · rw [stays h, countBoundary_notice]
    simp

/-- Settles O32: the flip by `takeAwaitedFlip_cases`, then the count, the panel's test and the time. -/
theorem frameStartIsCounted : Obligations.FrameStartIsCounted := by
  intro elapsed s hr hd at_ period N returns
  obtain ⟨stays, flips⟩ := takeAwaitedFlip_cases { s with now := at_ }
  obtain ⟨frameCount, countsNext⟩ := takeAwaitedFlip_counts { s with now := at_ }
  obtain ⟨u, hu⟩ : ∃ u, u = takeAwaitedFlip { s with now := at_ } := ⟨_, rfl⟩
  have cmd : u.cmd = s.cmd := by simp [hu]
  have frame : u.frame = s.frame := by simp [hu]
  have now : u.now = at_ := by simp [hu]
  rw [← hu] at stays flips frameCount countsNext
  obtain ⟨none, rises, transfers⟩ := countBoundary_cases u
  obtain ⟨-, counters', frameCount', countsNext', present, stands, -, -⟩ := checkReturn_spec (countBoundary u)
  obtain ⟨raises, silent⟩ := checkReturn_notice (countBoundary u)
  have kept := boundary_notice u
  obtain ⟨n, hn⟩ : ∃ n, n = (countBoundary u).notice := ⟨_, rfl⟩
  have set : n.set = u.notice.set := by rw [hn, countBoundary_set]
  obtain ⟨y, hy⟩ : ∃ y, y = checkReturn (countBoundary u) := ⟨_, rfl⟩
  have started : frameStarts { s with now := at_ } = recordStart y := by rw [hy, hu]; rfl
  have cmd' : y.cmd = s.cmd := by simp [hy, cmd]
  have now' : y.now = at_ := by simp [hy, now]
  have periods : framePeriod y = period := by
    unfold framePeriod
    rw [cmd']
    cases h : s.cmd.shadow <;> simp [period, h]
  simp only [countBoundary_keeps, cmd, frame, now, ← hn, ← hy]
    at counters' frameCount' countsNext' present stands raises silent
  rw [cmd, ← hn] at none rises transfers
  rw [frameCount] at rises transfers
  rw [← hy] at kept
  refine ⟨u, _, frameStart_runs hr hd, stays, fun h => (flips h).2, ?_⟩
  rw [started]
  simp only [settleOutputs_counters, settleOutputs_frameCount, settleOutputs_countsNext, settleOutputs_set,
    settleOutputs_frame, recordStart, onFrame, counters', frameCount', countsNext', periods, now']
  refine ⟨?_, trivial, trivial, present, stands, ?_, ⟨fun h => ?_, fun h => ?_⟩, fun h => ?_, fun h0 h => ?_,
    fun h0 h => ?_⟩
  · apply State.eq_of_parts <;> simp [hy, now]
  · simp only [counters', frameCount', countsNext'] at kept
    rw [← kept]
    exact (settleOutputs_spec s _).2.1
  · rw [raises h, raiseKind_spec]
    exact congrArg (· ||| _) set
  · rw [silent h, set]
  · rw [none h]
    exact ⟨rfl, rfl, countsNext⟩
  · rw [rises h0 h]
    exact ⟨rfl, rfl, countsNext⟩
  · rw [transfers h0 h]
    refine ⟨rfl, counterOf_zero, fun waits => ?_, fun w waits => ?_⟩
    · simp only [transferCounts, countsNext, waits]
    · refine ⟨{ counters := absorbCounters w.counters u.notice.counters, reports := w.reports ++ [] }, ?_,
        List.append_nil _, fun i => ?_⟩
      · simp only [transferCounts, countsNext, waits]
      · dsimp only
        rw [counterOf_absorb]
        exact absorbCounter_spec _ _

end Sys2Proof.Machine
end

section
/-!
O24, O25: the end of a table load (R104, R106, R110, R111, R126, R155 to R157).
-/
namespace Sys2Proof.Machine

/-! ## The last answer to a load (R155, R156) -/

/-- R155: the bytes that a load holds after an answer: a memory error brings none. -/
def heldBytes (l : TableLoad) : Answer → List Byte
  | .ok data => l.bytes ++ bytesOfPixels data
  | .memoryError => l.bytes

/-- R157: the image that a load which ends has read: its head, or the rest too, as far as its length. -/
def loadImage (l : TableLoad) : List Byte := if l.awaitingHead then l.bytes else l.bytes.take l.length

/-- R155, R156: an answer ends a load: to its head, where that is a memory error or fails a FORMAT check, or the
last one to its rest. -/
def EndsLoad (l : TableLoad) (a : Answer) : Prop :=
  (l.awaitingHead = true ∧
    (a = .memoryError ∨ formatHeadFailure (loadImage { l with bytes := heldBytes l a }) ≠ none)) ∨
    (l.awaitingHead = false ∧ l.inFlight = 1 ∧ (a = .memoryError ∨ l.toIssue = []))

/-- R156: the part after an answer to a read of load `l`: its first memory error is counted. -/
def errorCounted (l : TableLoad) (a : Answer) (s : State) : State :=
  if a = .memoryError ∧ l.readFailed = false then countMemoryError s else s

/-- R15, R155: the answer to a read of a load that RESTART has not abandoned. -/
theorem loaderReadAnswer_runs {a : Answer} {f : InFlight} {rest : List InFlight} {l : TableLoad} {s : State}
    (hr : Released s) (h : AnswerIsNext a f rest s) (ho : f.owner = .loader) (hl : s.cmd.load = some l) :
    exec (.loaderReadAnswer a) s =
      .next (settleOutputs s (loadAnswer l a { s with dn := { s.dn with inFlight := rest } })) := by
  simp only [exec, execLoaderReadAnswer, hr.run, withAnswer_examined h, ho, hl, happens, popInFlight_examined h]

/-- R155, R156: an answer that ends a load ends it with the marks and the image that it leaves. -/
theorem loadAnswer_ends {a : Answer} {l : TableLoad} (h : EndsLoad l a) (s : State) :
    ∃ m, loadAnswer l a s = endLoad m (errorCounted l a s) ∧ m.seq = l.seq ∧ m.disturbed = l.disturbed ∧
      (m.readFailed = true ↔ a = .memoryError ∨ l.readFailed = true) ∧
      loadImage m = loadImage { l with bytes := heldBytes l a } := by
  cases a with
  | memoryError =>
    have counted : loadReadFails { l with inFlight := l.inFlight - 1 } s = errorCounted l .memoryError s := by
      cases hf : l.readFailed <;> simp [loadReadFails, errorCounted, hf]
    have last : l.awaitingHead = true ∨ l.inFlight - 1 = 0 := h.imp And.left fun ⟨_, one, _⟩ => by omega
    refine ⟨{ l with inFlight := l.inFlight - 1, readFailed := true, toIssue := [] }, ?_, rfl, rfl, by simp, rfl⟩
    rw [← counted]
    exact if_pos last
  | ok data =>
    have silent : errorCounted l (.ok data) s = s := if_neg nofun
    refine ⟨{ l with inFlight := l.inFlight - 1, bytes := l.bytes ++ bytesOfPixels data }, ?_, rfl, rfl, by simp, rfl⟩
    rw [silent]
    unfold loadAnswer
    dsimp only
    rcases h with ⟨head, bad⟩ | ⟨body, one, all⟩
    · have bad : formatHeadFailure (l.bytes ++ bytesOfPixels data) ≠ none := by
        simpa [loadImage, head, heldBytes] using bad
      obtain ⟨d, hd⟩ := Option.ne_none_iff_exists'.1 bad
      simp only [head, if_true, hd]
    · have all : l.toIssue = [] := all.resolve_left nofun
      simp only [body, Bool.false_eq_true, if_false, all, one, and_self, if_true]

/-! ## How a load ends (R104, R111, R157) -/

section
variable {l : TableLoad} {s : State}

theorem endLoad_disturbed (h : l.disturbed = true) : endLoad l s =
    endLoadRejected l.seq .tableDisturbed 0 (onCmd (fun c => { c with load := none }) s) := by
  unfold endLoad
  exact if_pos h

theorem endLoad_unreadable (h : l.disturbed = false) (hf : l.readFailed = true) : endLoad l s =
    endLoadRejected l.seq .tableRejected (packDetail unreadableDetail)
      (onCmd (fun c => { c with load := none }) s) := by
  unfold endLoad
  exact (if_neg (by rw [h]; nofun)).trans (if_pos hf)

/-- R157: a load whose bytes could be read is judged by the validation of its image. -/
theorem endLoad_judged (h : l.disturbed = false) (hf : l.readFailed = false) :
    (∀ d, validate (loadImage l) = some d → endLoad l s =
      endLoadRejected l.seq .tableRejected (packDetail d) (onCmd (fun c => { c with load := none }) s)) ∧
    (validate (loadImage l) = none → endLoad l s =
      endLoadTaken l.seq (tableOfImage (loadImage l)) (onCmd (fun c => { c with load := none }) s)) := by
  unfold endLoad
  dsimp only
  simp only [h, hf, Bool.false_eq_true, if_false]
  simp only [loadImage]
  exact ⟨fun d hd => by simp only [hd], fun hv => by simp only [hv]⟩

end

/-- R95: what a new table does to the monitor. -/
theorem monitorNewTable_eq (t : Table) (s : State) : monitorNewTable t s = { s with monitor := { s.monitor with
    candidate := none, settle := .idle
    override := s.monitor.override.filter fun n => (tableRecord t n).isSome } } := by
  cases h : s.monitor.override <;> simp [monitorNewTable, onMonitor, h, Option.filter]

/-- R104, R111: the end of a load with a new table, where the active layout keeps its arrangement and where it does
not. -/
theorem endLoadReplaced_cases (t : Table) (s : State) :
    ((∀ c, s.ctrl.active = some c → ∀ r, tableRecord t c.number = some r → sameArrangement (copyRecord t r) c = true) →
      endLoadReplaced t s = endLoadKept s) ∧
    (∀ c r, s.ctrl.active = some c → tableRecord t c.number = some r → sameArrangement (copyRecord t r) c = false →
      endLoadReplaced t s =
        beginTransition .commit (copyRecord t r) (some c) (onCtrl (fun k => { k with loadHold := false }) s)) := by
  unfold endLoadReplaced
  dsimp only
  refine ⟨fun same => ?_, fun c r hc hr other => ?_⟩
  · split
    · rename_i r hs
      obtain ⟨c, hc, hr, other⟩ := selfTransition_some hs
      rw [same c hc r hr] at other
      cases other
    · rfl
  · have self : selfTransition t (onCtrl (fun k => { k with loadHold := false }) s) = some r := by
      simp [selfTransition, hc, hr, other]
    rw [self]
    simp only [commitRecord, onCtrl_ctrl, hc]

@[simp] theorem respond_set (q : Byte) (r : CommandResult) (d : BitVec 16) (s : State) :
    (respond q r d s).notice.set = s.notice.set := rfl

/-- R28, R29: a head that fails a FORMAT check is an invalid image. -/
theorem validate_of_head {image : List Byte} {d : Detail} (h : formatHeadFailure image = some d) :
    validate image = some d := by
  rw [validate, h]
  rfl

/-- Settles O24: the answer ends the load (`loadAnswer_ends`), which is judged in R157's order. -/
theorem tableLoadEnds : Obligations.TableLoadEnds := by
  intro a f rest l s hr hnext ho hl bytes image ends unreadable ended rejected
  have hbytes : bytes = heldBytes l a := by cases a <;> rfl
  have himage : image = loadImage { l with bytes := heldBytes l a } := by simp only [image, hbytes]; rfl
  rw [himage] at ends
  obtain ⟨m, judged, seq, disturbed, failed, read⟩ :=
    loadAnswer_ends ends { s with dn := { s.dn with inFlight := rest } }
  have run := loaderReadAnswer_runs hr hnext ho hl
  rw [judged] at run
  obtain ⟨u, hu⟩ : ∃ u, u = onCmd (fun c => { c with load := none })
      (errorCounted l a { s with dn := { s.dn with inFlight := rest } }) := ⟨_, rfl⟩
  have off : onCtrl (fun c => { c with loadHold := false }) u = ended := by
    rw [hu]
    simp only [errorCounted, ended]
    split <;> rfl
  have reject : ∀ r d, endLoad m (errorCounted l a { s with dn := { s.dn with inFlight := rest } }) =
      endLoadRejected m.seq r d u → rejected r d := fun r d h =>
    ⟨_, resolveSlot_spec ended, by rw [run, h, endLoadRejected, endLoadKept, off, seq]⟩
  have readable : ¬ unreadable → m.readFailed = false := fun h => Bool.eq_false_iff.2 (mt failed.1 h)
  rw [hu] at reject
  refine ⟨fun h => reject _ _ (endLoad_disturbed (disturbed.trans h)),
    fun h hf => reject _ _ (endLoad_unreadable (disturbed.trans h) (failed.2 hf)),
    fun d h hf hd => reject _ _ ((endLoad_judged (disturbed.trans h) (readable hf)).1 d (by rwa [read, ← himage])),
    fun d => validate_of_head, fun h hf hv same => ?_⟩
  have taken : endLoad m (errorCounted l a { s with dn := { s.dn with inFlight := rest } }) =
      endLoadTaken m.seq (tableOfImage image) u := by
    rw [(endLoad_judged (disturbed.trans h) (readable hf)).2 (by rwa [read, ← himage]), read, ← himage, ← hu]
  have active : (monitorNewTable (tableOfImage image) (replaceTable (tableOfImage image) .memory u)).ctrl.active =
      s.ctrl.active := by simp [hu, errorCounted]; split <;> rfl
  refine ⟨_, resolveSlot_spec _, ?_⟩
  rw [run, taken, endLoadTaken, (endLoadReplaced_cases _ _).1 (by rwa [active]), endLoadKept, monitorNewTable_eq, seq]
  congr 5
  rw [hu]
  simp only [errorCounted, ended]
  split <;> rfl

/-- Settles O25: the load ends with a valid image, and the self-transition test commits the active number's record. -/
theorem newArrangementIsCommitted : Obligations.NewArrangementIsCommitted := by
  intro data f rest l c r s hr hnext ho hl head all one clear readable image valid hc hrec other
  obtain ⟨m, judged, seq, disturbed, failed, read⟩ := loadAnswer_ends (a := .ok data)
    (.inr ⟨head, one, .inr all⟩) { s with dn := { s.dn with inFlight := rest } }
  have silent : errorCounted l (.ok data) { s with dn := { s.dn with inFlight := rest } } =
      { s with dn := { s.dn with inFlight := rest } } := if_neg nofun
  have himage : loadImage m = image := by rw [read]; simp [loadImage, head, heldBytes, image]
  have whole : m.readFailed = false := Bool.eq_false_iff.2 fun h => by simpa [readable] using failed.1 h
  obtain ⟨u, hu⟩ : ∃ u, u = { s with
      dn := { s.dn with inFlight := rest }
      cmd := { s.cmd with load := none, shadow := some (tableOfImage image), source := .memory }
      ctrl := { s.ctrl with loadHold := false }
      monitor := { s.monitor with
        candidate := none, settle := .idle
        override := s.monitor.override.filter fun n => (tableRecord (tableOfImage image) n).isSome } } := ⟨_, rfl⟩
  obtain ⟨v, hv⟩ : ∃ v, v = beginTransition .commit (copyRecord (tableOfImage image) r) (some c) u := ⟨_, rfl⟩
  have replaced : endLoadReplaced (tableOfImage image) (monitorNewTable (tableOfImage image)
      (replaceTable (tableOfImage image) .memory (onCmd (fun c => { c with load := none })
        { s with dn := { s.dn with inFlight := rest } }))) = v := by
    rw [(endLoadReplaced_cases _ _).2 c r (by exact hc) hrec other, monitorNewTable_eq, hv, hu]
    rfl
  have run : exec (.loaderReadAnswer (.ok data)) s =
      .next (settleOutputs s (respond l.seq .done 0 (raise .tableLoaded v))) := by
    rw [loaderReadAnswer_runs hr hnext ho hl, judged, silent,
      (endLoad_judged (disturbed.trans clear) whole).2 (himage ▸ valid), himage, endLoadTaken, replaced, seq]
  have committed := (beginTransition_spec .commit (copyRecord (tableOfImage image) r) (some c) u).1
  rw [← hv] at committed
  have ⟨cmd, monitor, frame, contexts, boot, pins⟩ : v.cmd = u.cmd ∧ v.monitor = u.monitor ∧ v.frame = u.frame ∧
      v.contexts = u.contexts ∧ v.boot = u.boot ∧ v.pins = u.pins := by simp [hv]
  rw [← hu]
  refine ⟨_, v, run, committed, rfl, committed.map, cmd.trans (by rw [hu]), committed.ctrl.trans (by rw [hu]; rfl), ?_,
    by simp, by simp [respond, formResponse], ?_, ?_, ?_, frame.trans (by rw [hu]), contexts.trans (by rw [hu]),
    boot.trans (by rw [hu]), pins.trans (by rw [hu])⟩
  · simp [committed.notice.1]
  all_goals simp [monitor, hu]

end Sys2Proof.Machine
end

section
/-!
O42: the end of CHECK (R91, R117, R126, R174).
-/
namespace Sys2Proof.Machine

/-! ## The table taken and the boot commit (R117, R174) -/

/-- R174: the table taken at the end of CHECK, with its source and the kind of notice that tells of it. -/
theorem takeBootTable_eq (s : State) : ∃ tb src k,
    takeBootTable s = raise k { s with cmd := { s.cmd with shadow := some tb, source := src } } ∧
    (validate s.boot.bytes = none → tb = tableOfImage s.boot.bytes ∧ src = .nvm ∧ k = .tableLoaded) ∧
    (¬ validate s.boot.bytes = none → tb = builtInTable ∧ src = .builtIn ∧ k = .tableRejected) := by
  cases hv : validate s.boot.bytes with
  | none => exact ⟨_, _, _, by rw [takeBootTable, hv]; rfl, fun _ => ⟨rfl, rfl, rfl⟩, fun h => absurd rfl h⟩
  | some f => exact ⟨_, _, _, by rw [takeBootTable, hv]; rfl, nofun, fun _ => ⟨rfl, rfl, rfl⟩⟩

/-- R117: the boot commit takes layout 0 of the shadow table as its target, with no old record. -/
theorem bootCommit_committed {tb : Table} {r : LayoutRecord} {s : State} (hc : s.cmd.shadow = some tb)
    (hr : tableRecord tb 0 = some r) : Committed s.ctrl.drainKind (copyRecord tb r) none s (bootCommit s) := by
  have target : bootTarget s = copyRecord tb r := by simp only [bootTarget, hc, hr]
  rw [bootCommit, target]
  exact (beginTransition_spec _ _ _ _).1

/-! ## The fallback timer (R91) -/

theorem checkFallback_eq (s : State) :
    checkFallback s = { s with monitor := { s.monitor with fallback := (checkFallback s).monitor.fallback } } := by
  unfold checkFallback
  (repeat' split) <;> rfl

theorem checkFallback_present {s : State} (h : s.monitor.h1.state = .present ∧ s.monitor.h2.state = .present) :
    (checkFallback s).monitor.fallback = .idle := by
  simp [checkFallback, bothPresent, h]

theorem checkFallback_starts {tb : Table} {s : State}
    (h : ¬ (s.monitor.h1.state = .present ∧ s.monitor.h2.state = .present)) (hs : s.ctrl.state ≠ .loading)
    (hf : s.monitor.fallback = .idle) (ht : s.cmd.shadow = some tb) :
    (checkFallback s).monitor.fallback = .running (s.now + tb.fallbackMs * 1000) := by
  have absent : bothPresent s.monitor = false := by simpa [bothPresent] using h
  simp [checkFallback, absent, hs, hf, ht]

/-! ## The requests that waited for the table (R8, R174) -/

section
variable {p : Port} {q : Request} {k : Nat} {s : State}

/-- R11, R17: routing leaves the outstanding tags, and the request no longer waits for the table. -/
theorem routeSurface_port (c : Context) : (portOf p (routeSurface p q c s)).tags = (portOf p s).tags ∧
    ∀ x, (portOf p (routeSurface p q c s)).place ≠ .waitTable x := by
  unfold routeSurface
  (repeat' split) <;> cases p <;> simp [portOf, setPlace, setPort, joinPath]

/-- R6, R46: the reception of a surface request takes its tag and appends its context. -/
theorem acceptSurface_receives : (portOf p (acceptSurface p k q s)).tags = (portOf p s).tags ++ [q.tag] ∧
    (∀ x, (portOf p (acceptSurface p k q s)).place ≠ .waitTable x) ∧
    (acceptSurface p k q s).contexts = s.contexts ++ [receive p k q s] := by
  unfold acceptSurface
  dsimp only
  split
  · cases p <;> simp [portOf, setPlace, setPort, makeReady, markTag, countEvent, onNotice]
  · refine ⟨?_, (routeSurface_port _).2, by simp⟩
    rw [(routeSurface_port _).1]
    cases p <;> rfl

/-- R174: once a table is there, a surface request that waits is received. -/
theorem admitWaiting_eq (hp : (portOf p s).place = .waitTable q) (hk : admittedWindow q = some (.surface k))
    (hs : s.ctrl.state ≠ .loading) : admitWaiting p s = acceptSurface p k q s := by
  simp [admitWaiting, hp, admitRequest, hk, hs, acceptRequest]

theorem admitWaiting_none (hp : ∀ x, (portOf p s).place ≠ .waitTable x) : admitWaiting p s = s := by
  unfold admitWaiting
  split
  · exact absurd ‹_› (hp _)
  · rfl

/-- R174: letting a surface request go on changes no controller value, no table and no timer, and discards no
context. -/
theorem admitWaiting_surfaceKeeps
    (hw : ∀ r, (portOf p s).place = .waitTable r → ∃ k, admittedWindow r = some (.surface k))
    (hs : s.ctrl.state ≠ .loading) :
    (admitWaiting p s).ctrl = s.ctrl ∧ (admitWaiting p s).cmd = s.cmd ∧ (admitWaiting p s).monitor = s.monitor ∧
      s.contexts ⊆ (admitWaiting p s).contexts := by
  by_cases waits : ∃ r, (portOf p s).place = .waitTable r
  · obtain ⟨r, hr⟩ := waits
    obtain ⟨k, hk⟩ := hw r hr
    rw [admitWaiting_eq hr hk hs, acceptSurface_receives.2.2]
    simp
  · rw [admitWaiting_none fun x h => waits ⟨x, h⟩]
    exact ⟨rfl, rfl, rfl, List.Subset.refl _⟩

/-- R8, R174: a request that waited goes on as if it were presented now; `s` is the state in which it waited. -/
theorem admitWaiting_presents {u : State} (hr : Released u) (hw : WaitsRight s) (hu : portOf p u = portOf p s) :
    (∀ q, (portOf p s).place = .waitTable q →
      exec (.requestPresent p q) (setPlace p .empty u) =
        .next (settleOutputs (setPlace p .empty u) (admitWaiting p u))) ∧
    ((∀ q, (portOf p s).place ≠ .waitTable q) → admitWaiting p u = u) := by
  refine ⟨fun q hq => ?_, fun none => admitWaiting_none (by rwa [hu])⟩
  have free : tagOutstanding p q.tag u = false := by
    rw [tagOutstanding, hu]
    exact (hw.2 p q hq).1
  have takes : TakesTag p q.tag (setPlace p .empty u) := by cases p <;> exact ⟨rfl, free⟩
  have admitted : admitWaiting p u = admitRequest p q u := by simp only [admitWaiting, hu, hq]
  have shown : presentable q = true := hw.1 p q (by rw [hq]; rfl)
  refine (present_takes (by rwa [Released, setPlace_pins]) shown takes).trans ?_
  rw [admitRequest_setPlace, admitted]

end

/-- R50: in a transition the target record and the back bank govern a reception. -/
theorem receive_relocating {rc : RecordCopy} {p : Port} {k : Nat} {q : Request} {s : State}
    (hs : s.ctrl.state = .relocating) (ht : s.ctrl.target = some rc) :
    receive p k q s =
      makeContext p s.ctrl.generation rc (otherBank s.ctrl.frontBank) (snapshotOf s.cmd.shadow k) k q := by
  have governs : Governs rc (otherBank s.ctrl.frontBank) s := .inr ⟨by rw [hs]; rfl, ht, rfl⟩
  obtain ⟨record, bank, -⟩ := governs.eq
  rw [receive, record, bank]

/-! ## Both ports in their order (log 21) -/

section
variable {s u : State} (first : Port)

theorem WaitsRight.surfaces (hw : WaitsRight s) (ports : ∀ p, portOf p u = portOf p s) (p : Port) (r : Request)
    (h : (portOf p u).place = .waitTable r) : ∃ k, admittedWindow r = some (.surface k) :=
  (hw.2 p r (ports p ▸ h)).2

theorem eq_or_eq_otherPort (p : Port) : p = first ∨ p = otherPort first := by
  cases p <;> cases first <;> simp [otherPort]

/-- R174: letting the requests of both ports go on, `first` before the other one. -/
theorem admitBoth_keeps (hw : WaitsRight s) (ports : ∀ p, portOf p u = portOf p s) (hs : u.ctrl.state ≠ .loading) :
    portOf (otherPort first) (admitWaiting first u) = portOf (otherPort first) s ∧
      (admitWaiting (otherPort first) (admitWaiting first u)).ctrl = u.ctrl ∧
      (admitWaiting (otherPort first) (admitWaiting first u)).cmd = u.cmd ∧
      (admitWaiting (otherPort first) (admitWaiting first u)).monitor = u.monitor := by
  have surfaces := hw.surfaces ports
  have other := admitWaiting_otherPort (surfaces first)
  obtain ⟨ctrl, cmd, monitor, -⟩ := admitWaiting_surfaceKeeps (surfaces first) hs
  obtain ⟨ctrl', cmd', monitor', -⟩ :=
    admitWaiting_surfaceKeeps (p := otherPort first) (by rw [other]; exact surfaces _) (ctrl ▸ hs)
  exact ⟨other.trans (ports _), ctrl'.trans ctrl, cmd'.trans cmd, monitor'.trans monitor⟩

/-- R50, R174: each of the two requests is received under the target record, with the generation then current. -/
theorem admitBoth_receives {rc : RecordCopy} {p : Port} {q : Request} {k : Nat} (hw : WaitsRight s)
    (ports : ∀ p, portOf p u = portOf p s) (hs : u.ctrl.state = .relocating) (ht : u.ctrl.target = some rc)
    (hq : (portOf p s).place = .waitTable q) (hk : admittedWindow q = some (.surface k)) :
    (portOf p (admitWaiting (otherPort first) (admitWaiting first u))).tags = (portOf p s).tags ++ [q.tag] ∧
      (∀ x, (portOf p (admitWaiting (otherPort first) (admitWaiting first u))).place ≠ .waitTable x) ∧
      makeContext p u.ctrl.generation rc (otherBank u.ctrl.frontBank) (snapshotOf u.cmd.shadow k) k q
        ∈ (admitWaiting (otherPort first) (admitWaiting first u)).contexts := by
  have surfaces := hw.surfaces ports
  have ready : u.ctrl.state ≠ .loading := by rw [hs]; nofun
  have other := admitWaiting_otherPort (surfaces first)
  have surfaces' : ∀ r, (portOf (otherPort first) (admitWaiting first u)).place = .waitTable r →
      ∃ k, admittedWindow r = some (.surface k) := by rw [other]; exact surfaces _
  obtain ⟨ctrl, cmd, -, -⟩ := admitWaiting_surfaceKeeps (surfaces first) ready
  have hq' : (portOf p u).place = .waitTable q := by rw [ports, hq]
  rw [← receive_relocating hs ht, ← ports p]
  rcases eq_or_eq_otherPort first p with rfl | rfl
  · have back := admitWaiting_otherPort surfaces'
    rw [show otherPort (otherPort p) = p by cases p <;> rfl] at back
    obtain ⟨-, -, -, kept⟩ := admitWaiting_surfaceKeeps surfaces' (by rwa [ctrl])
    obtain ⟨tags, place, contexts⟩ := acceptSurface_receives (p := p) (q := q) (k := k) (s := u)
    rw [← admitWaiting_eq hq' hk ready] at tags place contexts
    rw [back]
    exact ⟨tags, place, kept (by simp [contexts])⟩
  · have same : receive (otherPort first) k q (admitWaiting first u) = receive (otherPort first) k q u := by
      simp only [receive, governingRecord, governingBank, backBank, ctrl, cmd]
    rw [admitWaiting_eq (by rw [other, hq']) hk (by rwa [ctrl]), ← same, ← other]
    obtain ⟨tags, place, contexts⟩ := acceptSurface_receives (p := otherPort first) (q := q) (k := k)
      (s := admitWaiting first u)
    exact ⟨tags, place, by simp [contexts]⟩

end

/-! ## The obligation -/

theorem bootCheckEnd_runs {first : Port} {s : State} (h : Released s) (hb : s.boot.state = .check) :
    exec (.bootCheckEnd first) s = .next (settleOutputs s (checkEnds first s)) := by
  simp only [exec, execBootCheckEnd, h.run, hb, if_true, happens]

/-- Settles O42: the table taken and the boot commit, then the requests that waited, one port after the other, and last
the fallback timer, which is all that changes the monitor. -/
theorem bootCheckEnds : Obligations.BootCheckEnds := by
  intro first r s hr hb hw hout valid goesOn
  obtain ⟨tb, src, k, taken, whenValid, otherwise⟩ := takeBootTable_eq s
  refine ⟨tb, fun v => (whenValid v).1, fun v => (otherwise v).1, fun h0 => ?_⟩
  have table : (takeBootTable s).cmd = { s.cmd with shadow := some tb, source := src } := by rw [taken]; rfl
  have committed : Committed s.ctrl.drainKind (copyRecord tb r) none
      (raise k { s with cmd := { s.cmd with shadow := some tb, source := src } }) (bootCommit (takeBootTable s)) := by
    rw [← taken]
    simpa using bootCommit_committed (s := takeBootTable s) (by rw [table]) h0
  obtain ⟨u, hu⟩ : ∃ u, u = bootCommit (takeBootTable s) := ⟨_, rfl⟩
  rw [← hu] at committed
  have cmd : u.cmd = { s.cmd with shadow := some tb, source := src } := by
    simp [hu, table]
  have ctrl : u.ctrl = { s.ctrl with
      state := .relocating, generation := s.ctrl.generation + 1, target := some (copyRecord tb r), old := none
      oldWrites := [] } := by
    have writes : outstandingWrites (raise k { s with cmd := { s.cmd with shadow := some tb, source := src } }) = [] :=
      (outstandingWrites_congr rfl).trans hout
    rw [committed.ctrl, writes]
    rfl
  have ports : ∀ p, portOf p u = portOf p s := fun p => by cases p <;> simp [hu, portOf]
  have released : Released u := by simpa [Released, hu] using hr
  have ready : u.ctrl.state ≠ .loading := by rw [ctrl]; nofun
  have monitor : u.monitor = s.monitor := by simp [hu]
  have raised : kindPending u.notice.set k = true ∧ kindPending u.notice.set .transitionBegun = true := by
    simp [committed.notice.1]
  obtain ⟨second, wctrl, wcmd, wmonitor⟩ := admitBoth_keeps first hw ports ready
  obtain ⟨w, ew⟩ : ∃ w, w = admitWaiting (otherPort first) (admitWaiting first u) := ⟨_, rfl⟩
  have ends : checkEnds first s = onBoot (fun b => { b with state := .finished, bytes := [] }) (checkFallback w) := by
    rw [ew, hu]; rfl
  rw [← ew] at wctrl wcmd wmonitor
  have wboot : w.boot = s.boot := by simp [ew, hu]
  have wnow : w.now = s.now := by simp [ew, hu]
  refine ⟨u, admitWaiting first u, w, _, bootCheckEnd_runs hr hb, ?_, ?_, ?_, ?_, ?_, ?_, ctrl, raised.2,
    committed.map, committed.engine.1, committed.engine.2, ?_, ?_, ?_, ?_, ?_, ?_, ?_, ?_⟩
  · intro v
    obtain ⟨-, rfl, rfl⟩ := whenValid v
    exact committed
  · intro v
    obtain ⟨-, rfl, rfl⟩ := otherwise v
    exact committed
  · exact State.eq_of_parts (by simp [hu]) (by simp [hu]) (by simp [hu]) (by simp [hu]) (by simp [hu]) rfl
      (by simp [hu]) rfl rfl rfl (by simp [hu]) (by simp [hu]) (by simp [hu]) (by simp [hu]) (by simp [hu])
  · rw [cmd]
  · intro v
    obtain ⟨-, rfl, rfl⟩ := whenValid v
    exact ⟨by rw [cmd], raised.1⟩
  · intro v
    obtain ⟨-, rfl, rfl⟩ := otherwise v
    exact ⟨by rw [cmd], raised.1⟩
  · exact admitWaiting_presents released hw (ports first)
  · rw [ew]
    exact admitWaiting_presents (by simpa [Released] using released) hw second
  · rw [ends, checkFallback_eq w]
    simp [onBoot, wboot, wmonitor, monitor]
  · simp [ends, onBoot, wctrl]
  · simp [ends, onBoot, wcmd]
  · intro p q k hq hk
    have received := admitBoth_receives first hw ports (by rw [ctrl]) (by rw [ctrl]) hq hk
    rw [← ew, ctrl, cmd] at received
    rw [ends]
    cases p <;> simpa [portOf, onBoot] using received
  · intro present
    have idle := checkFallback_present (s := w) (by rwa [wmonitor, monitor])
    rw [ends]
    exact idle
  · intro absent idle
    have running := checkFallback_starts (tb := tb) (s := w) (by rwa [wmonitor, monitor]) (by rwa [wctrl])
      (by rwa [wmonitor, monitor]) (by rw [wcmd, cmd])
    rw [wnow] at running
    rw [ends]
    exact running

end Sys2Proof.Machine
end

section
/-!
O47: the plan of a transition and the pending states it gives (R127 to R129).
-/
namespace Sys2Proof.Machine

/-! ## A pane's placement of whole tiles and its inverse (R26, R128) -/

/-- R128: a covered logical tile is placed in the pane's physical rectangle, and reading backwards gives it again. -/
theorem placeTile_owned {p : Pane} {u v : Nat} (h : paneCovers p u v = true) :
    paneOwns p (placeTile p u v) = true ∧ logicalTile p (placeTile p u v) = (u, v) := by
  simp only [paneCovers, Bool.and_eq_true, decide_eq_true_eq] at h
  simp only [paneOwns, Bool.and_eq_true, decide_eq_true_eq]
  unfold placeTile logicalTile paneWidth paneHeight
  cases p.orient <;> cases p.mirror <;> simp only [if_true, if_false, Bool.false_eq_true, Prod.mk.injEq] <;> omega

/-- R128: an owned physical tile is the place of the covered logical tile that reading backwards gives. -/
theorem logicalTile_covered {p : Pane} {t : Tile} (h : paneOwns p t = true) :
    paneCovers p (logicalTile p t).1 (logicalTile p t).2 = true ∧
      placeTile p (logicalTile p t).1 (logicalTile p t).2 = t := by
  obtain ⟨c, r⟩ := t
  simp only [paneOwns, Bool.and_eq_true, decide_eq_true_eq] at h
  simp only [paneCovers, Bool.and_eq_true, decide_eq_true_eq]
  unfold paneWidth paneHeight at h
  unfold placeTile logicalTile
  cases ho : p.orient <;> cases p.mirror <;> simp only [ho] at h <;>
    simp only [if_true, if_false, Bool.false_eq_true, Tile.mk.injEq] <;> omega

/-- R39: two panes that own one tile overlap. -/
theorem panesOverlap_of_owns {p q : Pane} {t : Tile} (hp : paneOwns p t = true) (hq : paneOwns q t = true) :
    panesOverlap p q = true := by
  simp only [paneOwns, panesOverlap, Bool.and_eq_true, decide_eq_true_eq] at *
  omega

/-! ## The destinations (R127) -/

/-- Tiles laid out row by row are the images of the pairs of a row and a column. -/
theorem flatMap_map_range (f : Nat × Nat → Tile) (n m : Nat) :
    ((List.range n).flatMap fun r => (List.range m).map fun c => f (r, c)) =
      ((List.range n).product (List.range m)).map f := by
  simp [List.product, List.map_flatMap, Function.comp_def]

theorem mem_range_product {n m : Nat} {e : Nat × Nat} :
    e ∈ (List.range n).product (List.range m) ↔ e.1 < n ∧ e.2 < m := by
  rw [List.pair_mem_product, List.mem_range, List.mem_range]

/-- The panel's tiles in raster order are the tiles of the panel. -/
theorem mem_rasterTiles {t : Tile} : t ∈ rasterTiles ↔ OnPanel t := by
  obtain ⟨c, r⟩ := t
  simp only [rasterTiles, OnPanel, List.mem_flatMap, List.mem_map, List.mem_range, Tile.mk.injEq]
  exact ⟨by rintro ⟨r, hr, c, hc, rfl, rfl⟩; exact ⟨hc, hr⟩, fun ⟨hc, hr⟩ => ⟨r, hr, c, hc, rfl, rfl⟩⟩

theorem rasterTiles_nodup : rasterTiles.Nodup := by
  have product : rasterTiles = _ := flatMap_map_range (fun e => { col := e.2, row := e.1 }) 60 81
  rw [product]
  refine (List.nodup_range.product List.nodup_range).map fun a b h => ?_
  simp only [Tile.mk.injEq] at h
  exact Prod.ext h.2 h.1

/-- R127: the destinations of a pane's logical tiles are the tiles it owns. -/
theorem mem_panePlan {p : Pane} {t : Tile} : t ∈ panePlan p ↔ paneOwns p t = true := by
  simp only [panePlan, List.mem_flatMap, List.mem_map, List.mem_range]
  constructor
  · rintro ⟨j, hj, i, hi, rfl⟩
    exact (placeTile_owned (by simp [paneCovers, hi, hj])).1
  · intro h
    obtain ⟨covered, placed⟩ := logicalTile_covered h
    generalize (logicalTile p t).1 = u at covered placed
    generalize (logicalTile p t).2 = v at covered placed
    simp only [paneCovers, Bool.and_eq_true, decide_eq_true_eq] at covered
    refine ⟨v - p.v0, by omega, u - p.u0, by omega, ?_⟩
    rw [← placed]
    congr <;> omega

theorem panePlan_nodup (p : Pane) : (panePlan p).Nodup := by
  have product : panePlan p = _ := flatMap_map_range (fun e => placeTile p (p.u0 + e.2) (p.v0 + e.1)) p.h p.w
  rw [product]
  refine (List.nodup_range.product List.nodup_range).map_on fun a ha b hb h => ?_
  have back : ∀ e ∈ (List.range p.h).product (List.range p.w),
      logicalTile p (placeTile p (p.u0 + e.2) (p.v0 + e.1)) = (p.u0 + e.2, p.v0 + e.1) := fun e he => by
    obtain ⟨hj, hi⟩ := mem_range_product.1 he
    exact (placeTile_owned (by simp [paneCovers, hi, hj])).2
  have same := (back a ha).symm.trans ((congrArg (logicalTile p) h).trans (back b hb))
  simp only [Prod.mk.injEq, Nat.add_left_cancel_iff] at same
  exact Prod.ext same.2 same.1

/-- R127: no pane owns the tile. -/
theorem ownerPane_none {rc : RecordCopy} {t : Tile} :
    ownerPane rc t = none ↔ ∀ p ∈ rc.panes, paneOwns p t = false := by
  rw [ownerPane, List.findIdx?_eq_none_iff]

/-- R43, R127: of panes that overlap nowhere, the owner is the one pane that owns the tile. -/
theorem ownerPane_some {rc : RecordCopy} (h : PanesRight rc.panes) {j : Nat} {p : Pane} {t : Tile}
    (hj : rc.panes[j]? = some p) (ho : paneOwns p t = true) : ownerPane rc t = some j := by
  obtain ⟨hl, rfl⟩ := List.getElem?_eq_some_iff.1 hj
  refine List.findIdx?_eq_some_iff_getElem.2 ⟨hl, ho, fun k hk owns => ?_⟩
  have apart := List.pairwise_iff_getElem.1 h.2 k j (hk.trans hl) hl hk
  rw [panesOverlap_of_owns ho owns] at apart
  cases apart

/-- R127: each tile of the panel is a destination, of its pane or of the rest. -/
theorem mem_planTiles {rc : RecordCopy} (h : PanesRight rc.panes) {t : Tile} : t ∈ planTiles rc ↔ OnPanel t := by
  refine ⟨planTiles_panel h t, fun ht => ?_⟩
  rw [planTiles, List.mem_append, List.mem_flatMap, List.mem_filter]
  by_cases owned : ∃ p ∈ rc.panes, paneOwns p t = true
  · obtain ⟨p, hp, ho⟩ := owned
    exact .inl ⟨p, hp, mem_panePlan.2 ho⟩
  · refine .inr ⟨mem_rasterTiles.2 ht, ?_⟩
    rw [ownerPane_none.2 (by simpa using owned)]
    rfl

/-- R127: no tile is the destination of two positions: two panes share none, and the rest is what no pane owns. -/
theorem planTiles_nodup {rc : RecordCopy} (h : PanesRight rc.panes) : (planTiles rc).Nodup := by
  refine List.Nodup.append (List.nodup_flatMap.2 ⟨fun p _ => panePlan_nodup p, ?_⟩) (rasterTiles_nodup.filter _) ?_
  · refine h.2.imp fun {p q} apart t hp hq => ?_
    rw [panesOverlap_of_owns (mem_panePlan.1 hq) (mem_panePlan.1 hp)] at apart
    cases apart
  · intro t owned rest
    obtain ⟨p, hp, ht⟩ := List.mem_flatMap.1 owned
    have unowned := ownerPane_none.1 (Option.isNone_iff_eq_none.1 (List.mem_filter.1 rest).2) p hp
    rw [mem_panePlan.1 ht] at unowned
    cases unowned

/-- R127: the plan visits the panel's tiles in an order of its own. -/
theorem planTiles_perm {rc : RecordCopy} (h : PanesRight rc.panes) : (planTiles rc).Perm rasterTiles :=
  (List.perm_ext_iff_of_nodup (planTiles_nodup h) rasterTiles_nodup).2 fun _ =>
    (mem_planTiles h).trans mem_rasterTiles.symm

/-! ## The pending states (R129) -/

/-- R129: the old pane that shows the surface at the logical tile, or none. -/
theorem sourcePane_none {o : RecordCopy} {k u v : Nat} :
    sourcePane o k u v = none ↔ ∀ q ∈ o.panes, ¬ (q.surface = k ∧ paneCovers q u v = true) := by
  simp [sourcePane, List.findIdx?_eq_none_iff]

theorem sourcePane_some {o : RecordCopy} {k u v i : Nat} {q : Pane} (hi : o.panes[i]? = some q)
    (shows : q.surface = k ∧ paneCovers q u v = true)
    (first : ∀ m x, m < i → o.panes[m]? = some x → ¬ (x.surface = k ∧ paneCovers x u v = true)) :
    sourcePane o k u v = some i := by
  obtain ⟨hl, rfl⟩ := List.getElem?_eq_some_iff.1 hi
  refine List.findIdx?_eq_some_iff_getElem.2 ⟨hl, by simpa using shows, fun m hm => ?_⟩
  simpa using first m _ hm (List.getElem?_eq_getElem (hm.trans hl))

/-- R129: the pending state of the tile onto which pane `j` places logical tile (u, v), by the source found for it. -/
theorem planEntry_placed {rc : RecordCopy} (h : PanesRight rc.panes) {j u v : Nat} {p : Pane}
    (hj : rc.panes[j]? = some p) (hc : paneCovers p u v = true) (old : Option RecordCopy) :
    planEntry rc old (placeTile p u v) =
      match old.bind fun o => (sourcePane o p.surface u v).bind fun i => o.panes[i]?.map (i, ·) with
      | none => .pendingFill (.surface p.surface j)
      | some (i, q) => .pendingMove { source := placeTile q u v, oldPane := i, targetPane := j } := by
  obtain ⟨owned, back⟩ := placeTile_owned hc
  simp only [planEntry, ownerPane_some h hj owned, hj, back]
  cases old with
  | none => rfl
  | some o =>
    dsimp only [Option.bind_some]
    cases sourcePane o p.surface u v with
    | none => rfl
    | some i =>
      dsimp only [Option.bind_some]
      cases o.panes[i]? <;> rfl

/-- Settles O47: the destinations by `planTiles_perm`, the pending states by `planEntry_placed`. -/
theorem planReachesEveryTileOnce : Obligations.PlanReachesEveryTileOnce := by
  intro rc h
  refine ⟨⟨(planTiles_perm h).length_eq.trans rasterTiles_length, planTiles_nodup h, fun t => mem_planTiles h⟩,
    fun old t unowned => ?_, fun j p u v hj hc => ⟨fun old unshown => ?_, fun o i q hi hq first => ?_⟩⟩
  · rw [planEntry, ownerPane_none.2 unowned]
  · rw [planEntry_placed h hj hc]
    cases old with
    | none => rfl
    | some o => rw [Option.bind_some, sourcePane_none.2 (unshown o rfl)]; rfl
  · rw [planEntry_placed h hj hc, Option.bind_some, sourcePane_some hi hq first, Option.bind_some, hi]
    rfl

end Sys2Proof.Machine
end

section
/-!
O18: the answers that fill and empty a tile buffer, and the rows of a move (R135, R136, R139).
-/
namespace Sys2Proof.Machine

/-! ## The rows of a move (R136) -/

/-- R136: 40 rows. -/
theorem moveRows_length (target old : RecordCopy) (m : MoveSpec) (dest : Tile) (rows : List (List Pixel)) :
    (moveRows target old m dest rows).length = 40 := by
  rw [moveRows, List.length_map, List.length_range]

/-- R136: 40 pixels in each row. -/
theorem moveRows_row_length {target old : RecordCopy} {m : MoveSpec} {dest : Tile} {rows : List (List Pixel)}
    {row : List Pixel} (h : row ∈ moveRows target old m dest rows) : row.length = 40 := by
  obtain ⟨r, -, rfl⟩ := List.mem_map.1 h
  rw [List.length_map, List.length_range]

theorem moveRows_pixel (target old : RecordCopy) (m : MoveSpec) (dest : Tile) (rows : List (List Pixel)) {c r : Nat}
    (hc : c < 40) (hr : r < 40) :
    ((moveRows target old m dest rows).getD r [])[c]? = some (movePixel target old m dest rows c r) := by
  rw [moveRows, List.getD_eq_getElem?_getD, List.getElem?_map, List.getElem?_range hr, Option.map_some,
    Option.getD_some, List.getElem?_map, List.getElem?_range hc, Option.map_some]

/-- R136: the pixel at the place that the target pane gives a logical offset comes from the place that the old pane gives
it, rescaled from column to column. -/
theorem movePixel_placed {target old : RecordCopy} {m : MoveSpec} {p q : Pane} (hp : target.panes[m.targetPane]? = some p)
    (hq : old.panes[m.oldPane]? = some q) (dest : Tile) (rows : List (List Pixel)) {a b : Nat} (ha : a < 40)
    (hb : b < 40) :
    movePixel target old m dest rows (placeOffset p a b).1 (placeOffset p a b).2 =
      creaseRescale (gainCode old (40 * m.source.col + (placeOffset q a b).1))
        (gainCode target (40 * dest.col + (placeOffset p a b).1))
        ((rows.getD (placeOffset q a b).2 []).getD (placeOffset q a b).1 0) := by
  obtain ⟨-, -, back, -⟩ := offsets_inverse p ha hb
  simp only [movePixel, hp, hq, back, rowsPixel]

/-! ## The answers (R135, R139) -/

section
variable {a : Answer} {b : BufferId} {s : State}

/-- R135, R136: an OK answer to a read of a move not abandoned adds its row, and the 40th begins the writing. -/
theorem rowReadAnswered_ok {r : Reading} (data : List Pixel) (h : r.abandon = false) :
    rowReadAnswered b r (.ok data) s = { s with
      engine := setBuffer b
        (if r.answered + 1 = 40 then
          .writing { tile := r.tile, bank := otherBank r.bank, op := .move
                     rows := moveRows (s.ctrl.target.getD blankRecord) (s.ctrl.old.getD blankRecord) r.move r.tile
                       (r.rows ++ [data])
                     issued := 0, answered := 0, failure := false }
        else .reading { r with answered := r.answered + 1, rows := r.rows ++ [data] }) s.engine } := by
  unfold rowReadAnswered
  simp only [h, Bool.false_eq_true, if_false]
  split <;> rfl

/-- R139: the part after an answer to a row write of a tile: the first failing one of the 40 is counted and raised. -/
def firstWriteFailureCounted (a : Answer) (w : Writing) (s : State) : State :=
  if a = .memoryError ∧ w.failure = false then countMemoryError s else s

/-- R139: a tile fails with the first failing answer to one of its row writes. -/
theorem failure_after (a : Answer) (w : Writing) :
    (w.failure || !answerOk a) = (w.failure || decide (a = .memoryError)) := by
  cases a <;> rfl

/-- R139: what an answer to a row write counts. -/
theorem firstWriteFailureCounted_eq (a : Answer) (w : Writing) (s : State) :
    (if answerOk a || w.failure then s else countMemoryError s) = firstWriteFailureCounted a w s := by
  unfold firstWriteFailureCounted
  cases a <;> cases w.failure <;> simp [answerOk]

@[simp] theorem firstWriteFailureCounted_engine (w : Writing) : (firstWriteFailureCounted a w s).engine = s.engine := by
  unfold firstWriteFailureCounted; split <;> rfl

/-- What is counted does not depend on DN. -/
theorem firstWriteFailureCounted_dn (w : Writing) (d : DnPort) :
    firstWriteFailureCounted a w { s with dn := d } = { firstWriteFailureCounted a w s with dn := d } := by
  unfold firstWriteFailureCounted; split <;> rfl

/-- R137, R139: the tile written after an answer to one of its row writes. -/
def writeAnswered (a : Answer) (w : Writing) : Writing :=
  { w with answered := w.answered + 1, failure := w.failure || decide (a = .memoryError) }

/-- R137, R139: an answer to a row write is counted in its buffer, and the 40th ends the tile. -/
theorem rowWriteAnswered_eq (w : Writing) :
    rowWriteAnswered b w a s =
      if w.answered + 1 = 40 then endTile b (writeAnswered a w) (firstWriteFailureCounted a w s)
      else { firstWriteFailureCounted a w s with engine := setBuffer b (.writing (writeAnswered a w)) s.engine } := by
  unfold rowWriteAnswered
  dsimp only
  rw [firstWriteFailureCounted_eq, failure_after, onEngine, firstWriteFailureCounted_engine]
  rfl

/-- R15, R137: an answer to a row write is handed to the buffer that writes. -/
theorem rowWriteAnswer_runs {f : InFlight} {rest : List InFlight} {w : Writing} (h : Released s)
    (hn : AnswerIsNext a f rest s) (hf : f.owner = .row b) (hb : bufferOf b s.engine = .writing w) :
    exec (.rowWriteAnswer a) s =
      .next (settleOutputs s (rowWriteAnswered b w a { s with dn := { s.dn with inFlight := rest } })) := by
  simp only [exec, execRowWriteAnswer, h.run, withAnswer_examined hn, hf, hb, popInFlight_examined hn, happens]

end

/-- Settles O18: the reads by `rowReadAnswered_ok`, the moved pixels by `movePixel_placed`, the writes by
`rowWriteAnswered_eq`. -/
theorem rowAnswersAreKept : Obligations.RowAnswersAreKept := by
  refine ⟨fun data f rest b r s hr hn hf hb ha => ?_, fun target old m dest rows p q hp hq => ?_,
    fun a f rest b w s hr hn hf hb hl => ?_⟩
  · rw [rowReadAnswer_runs hr hn hf hb, rowReadAnswered_ok data ha]
  · refine ⟨moveRows_length _ _ m dest rows, fun _ => moveRows_row_length, fun a b ha hb => ?_, fun c r hc hr => ?_⟩
    · obtain ⟨hc, hr, -⟩ := offsets_inverse p ha hb
      dsimp only
      rw [moveRows_pixel target old m dest rows hc hr, movePixel_placed hp hq dest rows ha hb]
    · obtain ⟨-, -, -, ha, hb, placed⟩ := offsets_inverse p hc hr
      exact ⟨_, _, ha, hb, placed⟩
  · rw [rowWriteAnswer_runs hr hn hf hb, rowWriteAnswered_eq, if_neg hl, firstWriteFailureCounted_dn]
    rfl

end Sys2Proof.Machine
end


section
/-!
O20: the end of a tile operation (R137, R139, R143).
-/
namespace Sys2Proof.Machine

section
variable {a : Answer} {b : BufferId} {w : Writing} {s : State}

/-! ## The report (R137, R139) -/

/-- R139: a failing answer counts a memory error and raises MEMORY_ERROR. -/
theorem countMemoryError_eq (s : State) : countMemoryError s = { s with notice := { s.notice with
    counters := { s.notice.counters with memoryErrors := addCount 1 s.notice.counters.memoryErrors }
    set := s.notice.set ||| kindBit .memoryError
    noticeWriter := if s.notice.set ||| kindBit .memoryError = s.notice.set then s.notice.noticeWriter
      else writerChanged s.notice.noticeWriter } } :=
  congrArg (fun n => { s with notice := n }) (raiseKind_eq .memoryError _)

/-- R139: the part after the answer differs in what a memory error counts and raises. -/
theorem firstWriteFailureCounted_only (a : Answer) (w : Writing) (s : State) :
    let t := firstWriteFailureCounted a w s
    t = { s with notice := { s.notice with
      counters := t.notice.counters, set := t.notice.set, noticeWriter := t.notice.noticeWriter } } := by
  unfold firstWriteFailureCounted
  split
  · rw [countMemoryError_eq]
  · rfl

/-- R139: a tile with a failing answer among the 40 is counted as failed. -/
theorem endCounter_failed (h : w.failure = true ∨ a = .memoryError) : endCounter (writeAnswered a w) = .failed := by
  simp [endCounter, writeAnswered, h]

/-- R137: any other is counted as what it was. -/
theorem endCounter_done (h : ¬ (w.failure = true ∨ a = .memoryError)) :
    endCounter (writeAnswered a w) = match w.op with
      | .move => .moved
      | .fill => .filled := by
  have passes : ¬ (writeAnswered a w).failure = true := by simpa [writeAnswered] using h
  exact if_neg passes

/-! ## The entry and the buffer (R137) -/

/-- R137: a tile whose 40 row writes have been answered, before the held requests are looked at: its entry finished, its
buffer EMPTY and its operation counted. -/
def tileFinished (b : BufferId) (w : Writing) (s : State) : State :=
  { s with
    engine := setBuffer b .empty
      { s.engine with map := setEntry s.engine.map w.tile (if w.failure then .failed else .done) }
    notice := { s.notice with counters := countIn (endCounter w) 1 s.notice.counters } }

/-- R137: the order of what the end of a tile does. -/
theorem endTile_eq (b : BufferId) (w : Writing) (s : State) :
    endTile b w s = completionTest (takeTiles (releaseHeld (tileFinished b w s))) := rfl

/-! ## The held requests (R143) -/

/-- R143: a held request has a tile that is not finished in the map. -/
def hasUnfinished (m : List TileState) (s : State) (key : Key) : Bool :=
  match contextOf key s with
  | none => false
  | some c => !tilesFinished m c.tiles

theorem heldFinished_eq {m : List TileState} {t : State} (hc : t.contexts = s.contexts) (hm : t.engine.map = m)
    (key : Key) : heldFinished t key = !hasUnfinished m s key := by
  have same : contextOf key t = contextOf key s := by rw [contextOf, hc, contextOf]
  rw [heldFinished, hasUnfinished, same, hm]
  cases contextOf key s with
  | none => rfl
  | some c => exact (Bool.not_not _).symm

/-- R143: the requests that stay held, and those that join their ports' path lists. -/
theorem releaseHeld_eq {m : List TileState} {t : State} (hc : t.contexts = s.contexts) (hm : t.engine.map = m) :
    releaseHeld t = { t with
      up0 := (releaseHeld t).up0, up1 := (releaseHeld t).up1
      engine := { t.engine with hold := t.engine.hold.filter (hasUnfinished m s) } } ∧
    ∀ p, portOf p (releaseHeld t) = { portOf p t with path := (portOf p t).path ++
      (t.engine.hold.filter fun k => k.1 = p ∧ hasUnfinished m s k = false).map fun k => .surface k.2 } := by
  obtain ⟨ports, rest⟩ := releaseHeld_spec t
  simp only [heldFinished_eq hc hm, Bool.not_not] at rest
  refine ⟨rest, fun p => ?_⟩
  rw [ports, List.filter_filter]
  simp [heldFinished_eq hc hm]

end

/-- Settles O20: the tile ends by `endTile_eq`, the held requests go by `releaseHeld_eq`, and the report is that of
`firstWriteFailureCounted` and `endCounter`. -/
theorem tileOperationEnds : Obligations.TileOperationEnds := by
  intro a f rest b w s hr hn hf hb hl fails firstFails finished unfinished
  obtain ⟨c, hc⟩ : ∃ c, c = firstWriteFailureCounted a w s := ⟨_, rfl⟩
  obtain ⟨t, ht⟩ : ∃ t, t = tileFinished b (writeAnswered a w) { c with dn := { s.dn with inFlight := rest } } :=
    ⟨_, rfl⟩
  have only := firstWriteFailureCounted_only a w s
  rw [← hc] at only
  have engine : t.engine = setBuffer b .empty { s.engine with map := finished } := by
    rw [ht, only]
    simp [tileFinished, writeAnswered, finished]
  have contexts : t.contexts = s.contexts := by rw [ht, only]; rfl
  obtain ⟨released, ports⟩ := releaseHeld_eq (s := s) (m := finished) contexts (by rw [engine, setBuffer_map])
  have notice : (releaseHeld t).notice = { c.notice with
      counters := countIn (endCounter (writeAnswered a w)) 1 c.notice.counters } := by
    rw [released, ht]
    rfl
  refine ⟨releaseHeld t, ?_, ?_, ?_, ?_, ?_, ?_, ?_, ?_⟩
  · rw [rowWriteAnswer_runs hr hn hf hb, rowWriteAnswered_eq, if_pos hl, firstWriteFailureCounted_dn, endTile_eq, ht, hc]
  · rw [notice, released, ht, only]
    rfl
  · rw [released, engine]
    cases b <;> rfl
  · intro p
    rw [ports, engine, setBuffer_hold, ht, only]
    cases p <;> rfl
  · intro failing
    rw [notice, endCounter_failed failing, hc]
    unfold firstWriteFailureCounted
    split
    · rw [countMemoryError_eq]; exact ⟨rfl, rfl, rfl⟩
    · exact ⟨rfl, rfl, rfl⟩
  · intro passing
    have silent : c = s := by rw [hc]; exact if_neg fun h => passing (.inr h.1)
    rw [notice, endCounter_done passing, silent]
    cases w.op <;> rfl
  · intro first
    have counted : c = countMemoryError s := by rw [hc]; exact if_pos first
    rw [notice, endCounter_failed (.inr first.1), counted, countMemoryError_eq]
    exact ⟨rfl, rfl, rfl⟩
  · intro later
    have silent : c = s := by rw [hc]; exact if_neg later
    rw [notice, silent]
    refine ⟨?_, rfl, rfl⟩
    by_cases failing : fails
    · rw [endCounter_failed failing]; rfl
    · rw [endCounter_done failing]; cases w.op <;> rfl

end Sys2Proof.Machine
end

section
/-!
O21: what an EMPTY buffer takes (R130, R131, R134, R135, R146, R147).
-/
namespace Sys2Proof.Machine

section
variable {b : BufferId} {wanted : TileState → Bool} {s : State}

/-! ## The two offers (R130, R131, R146) -/

/-- R130: the entries that the engine looks for: any pending one in RELOCATING, fills alone in a drain of kind COMMIT. -/
def Wants (wanted : TileState → Bool) (s : State) : Prop :=
  (s.ctrl.state = .relocating ∧ wanted = isPending) ∨
    (s.ctrl.state = .draining ∧ s.ctrl.drainKind = .commit ∧ wanted = isPendingFill)

theorem Wants.cursorPass (h : Wants wanted s) : cursorPass s.ctrl = some wanted := by
  unfold Machine.cursorPass
  rcases h with ⟨hs, rfl⟩ | ⟨hs, hd, rfl⟩
  · rw [hs]
  · rw [hs, hd]

/-- R131, R146: the promotion queue, whose tiles are pending, offers its first tile that the pass wants. -/
theorem Wants.promotionOffer (h : Wants wanted s)
    (queued : ∀ t ∈ s.engine.promotion, isPending (entryAt s.engine.map t) = true) :
    promotionOffer s = s.engine.promotion.find? fun t => wanted (entryAt s.engine.map t) := by
  unfold Machine.promotionOffer
  rcases h with ⟨hs, rfl⟩ | ⟨hs, hd, rfl⟩
  · rw [hs]
    cases hq : s.engine.promotion with
    | nil => rfl
    | cons t ts =>
      have wants : isPending (entryAt s.engine.map t) = true := queued t (by simp [hq])
      exact (List.find?_cons_of_pos (p := fun t => isPending (entryAt s.engine.map t)) wants).symm
  · rw [hs, hd]

/-- R130: outside the work of a transition there is neither offer. -/
theorem no_offers (h : s.ctrl.state ≠ .relocating ∧ (s.ctrl.state ≠ .draining ∨ s.ctrl.drainKind = .restart)) :
    promotionOffer s = none ∧ cursorPass s.ctrl = none := by
  unfold promotionOffer cursorPass
  obtain ⟨hr, hd⟩ := h
  cases hs : s.ctrl.state with
  | relocating => exact absurd hs hr
  | draining => rw [hd.resolve_left (absurd hs)]; exact ⟨rfl, rfl⟩
  | loading | flipWait | steady => exact ⟨rfl, rfl⟩

/-- R130: the cursor offers the first position at or after it whose entry is wanted and not queued. -/
theorem cursorOffer_some {i : Nat} {t : Tile} (hi : s.engine.cursor ≤ i) (ht : (planTiles (targetRecord s))[i]? = some t)
    (hw : wanted (entryAt s.engine.map t) = true) (hq : t ∉ s.engine.promotion)
    (first : ∀ j u, s.engine.cursor ≤ j → j < i → (planTiles (targetRecord s))[j]? = some u →
      wanted (entryAt s.engine.map u) = true → u ∈ s.engine.promotion) : cursorOffer wanted s = some (i, t) := by
  have found : cursorOffer wanted s = some (s.engine.cursor + (i - s.engine.cursor), t) := by
    refine firstOffer_some _ _ _ (i - s.engine.cursor) t ?_ (by simp [hw, hq]) fun j u hj hu => ?_
    · rw [List.getElem?_drop, Nat.add_sub_cancel' hi, ht]
    · rw [List.getElem?_drop] at hu
      have queued := first (s.engine.cursor + j) u (by omega) (by omega) hu
      simpa using queued
  rw [found, Nat.add_sub_cancel' hi]

/-- R130: with no such position the cursor offers nothing. -/
theorem cursorOffer_none
    (h : ∀ i t, s.engine.cursor ≤ i → (planTiles (targetRecord s))[i]? = some t →
      wanted (entryAt s.engine.map t) = true → t ∈ s.engine.promotion) : cursorOffer wanted s = none := by
  refine firstOffer_none _ _ _ fun t ht => ?_
  obtain ⟨j, hj⟩ := List.mem_iff_getElem?.1 ht
  rw [List.getElem?_drop] at hj
  have queued := h (s.engine.cursor + j) t (by omega) hj
  simpa using queued

/-! ## The take (R131) -/

/-- R131: a buffer that is not EMPTY takes nothing. -/
theorem takeTile_busy (h : bufferOf b s.engine ≠ .empty) : takeTile b s = s := by
  unfold takeTile
  split
  · exact absurd ‹_› h
  · rfl

/-- R130, R131: nor does an EMPTY one with nothing to look for. -/
theorem takeTile_idle (hp : promotionOffer s = none) (hc : cursorPass s.ctrl = none) : takeTile b s = s := by
  unfold takeTile
  rw [hp, hc]
  split <;> rfl

theorem takeTile_promoted {t : Tile} (hb : bufferOf b s.engine = .empty) (hp : promotionOffer s = some t) :
    takeTile b s =
      promoteHeld (startTile b t { s with engine := { s.engine with promotion := s.engine.promotion.erase t } }) := by
  unfold takeTile
  rw [hb, hp]
  rfl

theorem takeTile_cursor (hb : bufferOf b s.engine = .empty) (hp : promotionOffer s = none)
    (hc : cursorPass s.ctrl = some wanted) :
    takeTile b s = match cursorOffer wanted s with
      | some o => startTile b o.2 { s with engine := { s.engine with cursor := o.1 + 1 } }
      | none => { s with engine := { s.engine with cursor := 4860 } } := by
  unfold takeTile
  rw [hb, hp, hc]
  dsimp only
  cases cursorOffer wanted s <;> rfl

/-- R147: after a start the held requests' tiles are offered again, in entry order. -/
theorem promoteHeld_started {t : Tile} {e : Engine} {taken : State}
    (ht : startTile b t { s with engine := e } = taken) (he : e.hold = s.engine.hold) :
    promoteHeld (startTile b t { s with engine := e }) =
      promoted (joining (s.engine.hold.flatMap fun key => (contextOf key s).elim [] (·.tiles)) taken) taken := by
  have hold : taken.engine.hold = s.engine.hold := by
    rw [← ht]
    exact (startTile_spec b t _).2.2.1.trans he
  have contexts : ∀ key, contextOf key taken = contextOf key s := fun key => by
    simp [contextOf, ← ht]
  rw [ht, promoteHeld_eq, hold]
  simp only [contexts]

end

/-- Settles O21: the offers by `Wants.promotionOffer` and `cursorOffer_some`, the takes by `takeTile_promoted` and
`takeTile_cursor`. -/
theorem bufferTakesTheOffer : Obligations.BufferTakesTheOffer := by
  refine ⟨fun s => rfl, fun b s => ⟨takeTile_busy, fun h => ?_, ?_⟩⟩
  · obtain ⟨offer, pass⟩ := no_offers h
    exact takeTile_idle offer pass
  intro wanted hb (hw : Wants wanted s) queued plan begun
  have starts : ∀ t e, startTile b t { s with engine := e } = { s with engine := begun t e } := fun t e => by
    unfold startTile
    dsimp only [begun]
    cases entryAt e.map t <;> rfl
  have offer := hw.promotionOffer queued
  refine ⟨fun before t after split unwanted wants => ?_, fun unwanted => ?_⟩
  · have found : promotionOffer s = some t := by
      rw [offer]
      exact List.find?_eq_some_iff_append.2 ⟨wants, before, after, split, by simpa using unwanted⟩
    exact (takeTile_promoted hb found).trans (promoteHeld_started (starts t _) rfl)
  · have none_ : promotionOffer s = none := by
      rw [offer, List.find?_eq_none]
      simpa using unwanted
    have take := takeTile_cursor hb none_ hw.cursorPass
    refine ⟨fun i t hi ht wants unqueued first => ?_, fun all => ?_⟩
    · rw [take, cursorOffer_some hi ht wants unqueued first]
      exact starts t _
    · rw [take, cursorOffer_none all]

end Sys2Proof.Machine
end

section
/-!
O23, O50: the reads of a table load and the answers that do not end it (R155, R156).
-/
namespace Sys2Proof.Machine

/-! ## The reads for the rest of an image (R155) -/

section
variable {fuel a n : Nat}

theorem readsOf_zero (fuel a : Nat) : readsOf fuel a 0 = [] := by cases fuel <;> rfl

theorem readsOf_succ (h : n ≠ 0) :
    readsOf (fuel + 1) a n = (a, min 64 n) :: readsOf fuel (a + 256) (n - min 64 n) := if_neg h

/-- R155: reads enough fetch all the pixels. -/
theorem readsOf_sum (h : n ≤ 64 * fuel) : ((readsOf fuel a n).map Prod.snd).sum = n := by
  induction fuel generalizing a n with
  | zero => simp [show n = 0 by omega, readsOf_zero]
  | succ fuel ih =>
    by_cases h0 : n = 0
    · simp [h0, readsOf_zero]
    · rw [readsOf_succ h0, List.map_cons, List.sum_cons, ih (by omega)]
      dsimp only
      omega

/-- R155: each read begins where the one before it ends, and only the last can be shorter than 64 pixels. -/
theorem readsOf_get {i x m : Nat} (h : (readsOf fuel a n)[i]? = some (x, m)) :
    x = a + 256 * i ∧ 1 ≤ m ∧ m ≤ 64 ∧ (i + 1 < (readsOf fuel a n).length → m = 64) := by
  induction fuel generalizing a n i with
  | zero => cases h
  | succ fuel ih =>
    by_cases h0 : n = 0
    · rw [h0, readsOf_zero] at h; cases h
    rw [readsOf_succ h0] at h ⊢
    cases i with
    | zero =>
      cases h
      refine ⟨rfl, by omega, by omega, fun more => ?_⟩
      by_contra short
      rw [show n - min 64 n = 0 by omega, readsOf_zero] at more
      simp at more
    | succ i =>
      obtain ⟨start, nonempty, few, full⟩ := ih (by simpa using h)
      exact ⟨by omega, nonempty, few, fun more => full (by simpa using more)⟩

end

/-- Settles O50: an image of at most 1376 bytes leaves at most 340 pixels, for which the fuel of 6 reads is enough. -/
theorem remainderReadsCoverTheImage : Obligations.RemainderReadsCoverTheImage := by
  intro length least most reads
  refine ⟨readsOf_sum (by omega), ?_, fun i a n h => readsOf_get h⟩
  exact (readsOf_succ (by omega)).trans_ne (List.cons_ne_nil _ _)

/-! ## Answers that do not end a load (R155, R156) -/

section
variable {l : TableLoad} {data : List Pixel}

/-- R155: a head that passes FORMAT checks 1 to 3 asks for the rest of the image. -/
theorem loadAnswer_head (s : State) (h : l.awaitingHead = true)
    (passes : formatHeadFailure (l.bytes ++ bytesOfPixels data) = none) :
    loadAnswer l (.ok data) s = onCmd (fun c => { c with load := some { l with
      awaitingHead := false, bytes := l.bytes ++ bytesOfPixels data, inFlight := l.inFlight - 1
      length := imageLength (l.bytes ++ bytesOfPixels data)
      toIssue := remainderReads (imageLength (l.bytes ++ bytesOfPixels data)) } }) s := by
  simp only [loadAnswer, h, if_true, passes]

/-- R155: an OK answer to the rest adds its bytes while reads are unissued or unanswered. -/
theorem loadAnswer_rest (s : State) (h : l.awaitingHead = false) (more : l.toIssue ≠ [] ∨ 2 ≤ l.inFlight) :
    loadAnswer l (.ok data) s = onCmd (fun c => { c with load := some { l with
      bytes := l.bytes ++ bytesOfPixels data, inFlight := l.inFlight - 1 } }) s := by
  have unfinished : ¬ (l.toIssue = [] ∧ l.inFlight - 1 = 0) := fun ⟨issued, answered⟩ =>
    more.elim (absurd issued) (by omega)
  simp only [loadAnswer, h, Bool.false_eq_true, if_false, if_neg unfinished]

/-- R156: a failing answer to the rest is counted at the first, and stops further reads. -/
theorem loadAnswer_fails (s : State) (h : l.awaitingHead = false) (more : 2 ≤ l.inFlight) :
    loadAnswer l .memoryError s = onCmd (fun c => { c with load := some { l with
      readFailed := true, toIssue := [], inFlight := l.inFlight - 1 } }) (loadReadFails l s) := by
  have unfinished : ¬ (l.awaitingHead = true ∨ l.inFlight - 1 = 0) := by
    simp only [h, Bool.false_eq_true, false_or]
    omega
  exact if_neg unfinished

end

/-- Settles O23: the three branches of `loadAnswer` that keep the load. -/
theorem loaderAnswerIsKept : Obligations.LoaderAnswerIsKept := by
  intro f rest l s hr ho hl
  refine ⟨fun data hn head passes => ?_, fun data hn body more => ?_, fun hn body more => ?_⟩
  · rw [loaderReadAnswer_runs hr hn ho hl, loadAnswer_head _ head passes]
    rfl
  · rw [loaderReadAnswer_runs hr hn ho hl, loadAnswer_rest _ body more]
    rfl
  · rw [loaderReadAnswer_runs hr hn ho hl, loadAnswer_fails _ body more, loadReadFails]
    split <;> rfl

end Sys2Proof.Machine
end

section
/-!
O26, O27: the answers to the writes of the records (R159, R162, R166, R169, R170).
-/
namespace Sys2Proof.Machine

/-- R3: an answer is OK, or a memory error. -/
theorem ite_answerOk {α : Type} (a : Answer) (x y : α) :
    (if answerOk a = true then x else y) = if a = .memoryError then y else x := by
  cases a <;> rfl

section
variable {a : Answer} {f : InFlight} {rest : List InFlight} {s : State}

/-- R166: the answer to a write of the notice or status record. -/
theorem recordWriteAnswer_runs {w : RecordWriter} (hr : Released s) (hn : AnswerIsNext a f rest s)
    (ho : f.owner = .record w) (hw : w = .notice ∨ w = .status) :
    exec (.recordWriteAnswer a) s =
      .next (settleOutputs s (recordAnswered w a { s with dn := { s.dn with inFlight := rest } })) := by
  rcases hw with rfl | rfl <;>
    simp only [exec, execRecordWriteAnswer, hr.run, withAnswer_examined hn, ho, happens, popInFlight_examined hn]

/-- R162: the answer to a response write. -/
theorem responseWriteAnswer_runs (hr : Released s) (hn : AnswerIsNext a f rest s) (ho : f.owner = .record .response) :
    exec (.responseWriteAnswer a) s =
      .next (settleOutputs s (responseAnswered a { s with dn := { s.dn with inFlight := rest } })) := by
  simp only [exec, execResponseWriteAnswer, hr.run, withAnswer_examined hn, ho, happens, popInFlight_examined hn]

/-- R169, R170: the answer to a counts write. -/
theorem countsWriteAnswer_runs {c : CountsFlight} (hr : Released s) (hn : AnswerIsNext a f rest s)
    (ho : f.owner = .record .counts) (hc : s.notice.countsBusy = some c) :
    exec (.countsWriteAnswer a) s =
      .next (settleOutputs s (countsAnswered c a { s with dn := { s.dn with inFlight := rest } })) := by
  simp only [exec, execCountsWriteAnswer, hr.run, withAnswer_examined hn, ho, hc, happens, popInFlight_examined hn]

end

/-! ## Counts writes (R159, R169, R170) -/

section
variable {c : CountsFlight}

/-- R170: the answer to a counts write that RESTART has overtaken only frees the writer. -/
theorem countsAnswered_overtaken (a : Answer) (s : State) (h : c.overtaken = true) :
    countsAnswered c a s = onNotice (fun n => { n with countsBusy := none }) s := if_pos h

/-- R169: the answer to any other raises its kind and answers its REPORTs. -/
theorem countsAnswered_examined (a : Answer) (s : State) (h : c.overtaken = false) :
    let freed := onNotice (fun n => { n with countsBusy := none }) s
    countsAnswered c a s =
      answerReports c.reports (if a = .memoryError then countMemoryError freed else raise .countsReady freed) := by
  simp only [countsAnswered, h, Bool.false_eq_true, if_false, ite_answerOk]

end

/-- R162: a response takes the place of the one formed before it. -/
theorem respond_respond (q : Byte) (r : CommandResult) (d : BitVec 16) (q' : Byte) (r' : CommandResult)
    (d' : BitVec 16) (s : State) : respond q' r' d' (respond q r d s) = respond q' r' d' s := rfl

/-- R159: of the REPORTs that one counts write carries, the response of the last stands (log 23). -/
theorem answerReports_last (before : List Byte) (seq : Byte) (s : State) :
    answerReports (before ++ [seq]) s = respond seq .done 0 s := by
  induction before generalizing s with
  | nil => rfl
  | cons first before ih => exact (ih (respond first .done 0 s)).trans (respond_respond _ _ _ _ _ _ s)

/-- Settles O26: each writer's answer, by its row; a memory error is the other answer than OK (`ite_answerOk`). -/
theorem recordWriteIsAnswered : Obligations.RecordWriteIsAnswered := by
  intro a f rest s hr hn left counted
  refine ⟨fun ho => ?_, fun ho => ?_, fun ho => ?_, fun c ho hc overtaken => ?_, fun c ho hc kept carriesNone => ?_⟩
  · rw [recordWriteAnswer_runs hr hn ho (.inl rfl), recordAnswered, ite_answerOk]
    rfl
  · rw [recordWriteAnswer_runs hr hn ho (.inr rfl), recordAnswered, ite_answerOk]
    rfl
  · rw [responseWriteAnswer_runs hr hn ho, responseAnswered, ite_answerOk]
    rfl
  · rw [countsWriteAnswer_runs hr hn ho hc, countsAnswered_overtaken a _ overtaken]
    rfl
  · rw [countsWriteAnswer_runs hr hn ho hc, countsAnswered_examined a _ kept, carriesNone]
    by_cases error : a = .memoryError
    · simp only [if_pos error, counted]
      rfl
    · simp only [if_neg error]
      rfl

/-- Settles O27: the last REPORT's response stands (`answerReports_last`) over what the answer raises. -/
theorem reportIsAnsweredWithItsCounts : Obligations.ReportIsAnsweredWithItsCounts := by
  intro a f rest c before seq s hr hn ho hc kept carries raised
  rw [countsWriteAnswer_runs hr hn ho hc, countsAnswered_examined a _ kept, carries, answerReports_last]
  by_cases error : a = .memoryError
  · simp only [if_pos error, raised, countMemoryError_eq]
    rfl
  · simp only [if_neg error, raised, raise, raiseKind_eq, onNotice]
    rfl

end Sys2Proof.Machine
end

section
/-!
O35, O39: commands repeated, turned away or unknown; REPORT (R153, R154, R159, R169).
-/
namespace Sys2Proof.Machine

section
variable {p : Port} {tag : Tag} {seq : Byte} {arg : BitVec 16} {s : State}

/-- R154: a command other than RESTART finds the part busy in LOADING and while a load runs. -/
theorem commandBusy_iff : commandBusy s = true ↔ s.ctrl.state = .loading ∨ s.cmd.load ≠ none := by
  simp [commandBusy, Option.isSome_iff_ne_none]

theorem commandBusy_taking (r : Request) : commandBusy (taking p r seq s) = commandBusy s := by
  simp [commandBusy]

/-- R154, R162: a command that is only answered leaves its request, its sequence and its response. -/
theorem respond_taking (r : Request) (result : CommandResult) (detail : BitVec 16) :
    respond seq result detail (taking p r seq s) = { forwarded p r s with
      cmd := { s.cmd with lastSeq := seq }
      notice := { s.notice with responseNext := some { seq := seq, result := result, detail := detail } } } := by
  simp [respond, onNotice, formResponse, taking, onCmd]

/-- R154: a code that names no command is answered BAD_COMMAND. -/
theorem runCommand_unknown {code : Byte} (h : code ∉ knownCodes) :
    runCommand seq code arg s = respond seq .badCommand (code.setWidth 16) s := by
  simp only [knownCodes, List.mem_cons, List.not_mem_nil, or_false, not_or] at h
  obtain ⟨publish, force, release, report, restart⟩ := h
  exact (if_neg publish).trans <| (if_neg force).trans <| (if_neg release).trans <| (if_neg report).trans <|
    if_neg restart

/-- R154: a busy part turns a FORCE, RELEASE or REPORT away. -/
theorem runCommand_busy {code : Byte} (h : code = 0x02 ∨ code = 0x03 ∨ code = 0x04) (busy : commandBusy s = true) :
    runCommand seq code arg s = respond seq .busy 0 s := by
  rcases h with rfl | rfl | rfl <;> exact if_pos busy

/-- R154: a PUBLISH is turned away outside STEADY too. -/
theorem runCommand_publish_busy (h : commandBusy s = true ∨ s.ctrl.state ≠ .steady) :
    runCommand seq 0x01 arg s = respond seq .busy 0 s := if_pos h

/-- R154: the command with an unknown code is the presentation of its word. -/
theorem badCommand_presents {code : Byte} (h : code ∉ knownCodes) :
    exec (.badCommand p tag seq code arg) s = present p (commandRequest tag seq code arg) s := if_pos h

/-- R159: a REPORT with a new sequence, outside LOADING and with no load running, transfers the counts. -/
theorem report_runs (h : Released s) (ht : TakesTag p tag s) (hne : seq ≠ s.cmd.lastSeq)
    (hl : s.ctrl.state ≠ .loading) (hn : s.cmd.load = none) :
    exec (.report p tag seq arg) s = .next (settleOutputs s
      (onNotice (transferCounts [seq]) (taking p (commandRequest tag seq 0x04 arg) seq s))) := by
  have run : exec (.report p tag seq arg) s =
      .next (settleOutputs s (takeReport seq (taking p (commandRequest tag seq 0x04 arg) seq s))) :=
    present_command_new h ht seq 0x04 arg hne
  rw [run, takeReport, commandBusy_taking, not_commandBusy hl hn, if_neg Bool.false_ne_true]

end

/-- Settles O35: a repeated word by `present_command_repeated`; a new one runs a command that only answers. -/
theorem commandIsTakenOrTurnedAway : Obligations.CommandIsTakenOrTurnedAway := by
  intro p tag seq arg s hr ht word answer
  refine ⟨fun same => ?_, fun new => ?_⟩
  · have repeated := fun code => present_command_repeated hr ht seq code arg same
    exact ⟨repeated _, repeated _, repeated _, repeated _, repeated _,
      fun code unknown => (badCommand_presents unknown).trans (repeated code)⟩
  have answers : ∀ code result detail,
      (∀ r, runCommand seq code arg (taking p r seq s) = respond seq result detail (taking p r seq s)) →
      present p (commandRequest tag seq code arg) s = .next (answer code result detail) :=
    fun code result detail only => (present_command_new hr ht seq code arg new).trans <|
      congrArg (fun t => Host.Outcome.next (settleOutputs s t))
        ((only (commandRequest tag seq code arg)).trans (respond_taking _ result detail))
  refine ⟨fun code unknown => ?_, fun busy => answers _ _ _ fun r => runCommand_publish_busy ?_, fun busy => ?_⟩
  · exact (badCommand_presents unknown).trans (answers code _ _ fun _ => runCommand_unknown unknown)
  · rw [commandBusy_taking, taking_ctrl]
    exact busy.symm.imp_left fun load => commandBusy_iff.2 (.inr load)
  · have turned : ∀ code : Byte, code = 0x02 ∨ code = 0x03 ∨ code = 0x04 →
        present p (commandRequest tag seq code arg) s = .next (answer code .busy 0) := fun code h =>
      answers code _ _ fun r => runCommand_busy h ((commandBusy_taking r).trans (commandBusy_iff.2 busy))
    exact ⟨turned _ (.inl rfl), turned _ (.inr (.inl rfl)), turned _ (.inr (.inr rfl))⟩

/-- Settles O39: the transfer zeroes the counters (`counterOf_zero`) and a waiting counts write absorbs each of them
(`absorbCounter_spec`). -/
theorem reportTransfersTheCounts : Obligations.ReportTransfersTheCounts := by
  intro p tag seq arg s hr ht hne hl hn
  refine ⟨_, report_runs hr ht hne hl hn, ?_, ?_⟩
  · simp only [settleOutputs, onNotice, taking, onCmd, forwarded_cmd]
  simp only [settleOutputs_counters, settleOutputs_frameCount, settleOutputs_set, settleOutputs_responseNext,
    settleOutputs_countsBusy, settleOutputs_countsNext, onNotice_notice, transferCounts, taking_notice]
  refine ⟨counterOf_zero, trivial, trivial, trivial, trivial, fun waits => by rw [waits], fun w waits => ?_⟩
  refine ⟨{ counters := absorbCounters w.counters s.notice.counters, reports := w.reports ++ [seq] }, by rw [waits],
    rfl, fun i => ?_⟩
  rw [counterOf_absorb]
  exact absorbCounter_spec _ _

end Sys2Proof.Machine
end

section
/-!
O52, O60: NOTIFY and the status writer, both evaluated at the end of every event (R164, R166, R167).
-/
namespace Sys2Proof.Machine

/-! ## NOTIFY (R164) -/

/-- R164: NOTIFY is right exactly when it stands at its level for the notice set and the shadow table. -/
theorem notifyRight_iff (s : State) : NotifyRight s ↔ s.notice.notify = notifyLevel s.notice.set s.cmd.shadow := by
  rw [Bool.eq_iff_iff, notifyLevel_true]
  rfl

/-- R164: the end of an event puts NOTIFY right, whatever it was. -/
theorem settleOutputs_notifyRight (b s : State) : NotifyRight (settleOutputs b s) := by
  simp [notifyRight_iff]

/-- NOTIFY depends on the notice unit and the command block alone. -/
theorem NotifyRight.congr {s t : State} (h : NotifyRight s) (hn : t.notice = s.notice) (hc : t.cmd = s.cmd) :
    NotifyRight t := by
  unfold NotifyRight
  rw [hn, hc]
  exact h

/-- R164: with the shadow table empty no kind is enabled. -/
theorem NotifyRight.deasserted {s : State} (h : NotifyRight s) (hs : s.cmd.shadow = none) :
    s.notice.notify = false := by
  rw [(notifyRight_iff s).1 h, hs]
  rfl

/-- R164: RESET_N_ASSERT leaves NOTIFY and what it is evaluated from (log 8), the release sets them to their reset
values, and every other command ends by evaluating NOTIFY. -/
theorem exec_notifyRight {c : Instr} {s t : State} (hs : NotifyRight s) (h : exec c s = .next t) : NotifyRight t := by
  rcases exec_event h with rfl | rfl | ⟨u, -, rfl⟩
  · rw [resetNAssert_next h]
    exact hs.congr rfl rfl
  · rw [resetNRelease_next h]
    exact resetStateIsRight.1.congr rfl rfl
  · exact settleOutputs_notifyRight s u

/-- Log 4: a step idles on an empty queue of commands, or runs the front one on the part with the queue's rest. -/
theorem step_next {s t : State} (h : step s = .next t) :
    t = s ∨ ∃ c rest, s.pending = c :: rest ∧ exec c { s with pending := rest } = .next t := by
  unfold step at h
  cases hp : s.pending with
  | nil =>
    rw [hp] at h
    cases h
    exact .inl rfl
  | cons c rest =>
    rw [hp] at h
    exact .inr ⟨c, rest, rfl, h⟩

/-- Settles O52: an idle step keeps the part, and every command keeps NOTIFY right (`exec_notifyRight`). -/
theorem notifyStaysRight : Obligations.NotifyStaysRight := by
  intro s t hs h
  have right : NotifyRight t := by
    rcases step_next h with rfl | ⟨c, rest, -, runs⟩
    · exact hs
    · have front : NotifyRight { s with pending := rest } := hs.congr rfl rfl
      exact exec_notifyRight front runs
  exact ⟨right, right.deasserted⟩

/-! ## The status writer (R166, R167) -/

/-- R166: a record whose contents have changed has a write to issue, at once or after the one in flight. -/
theorem writerChanged_due (w : WriterState) : writerChanged w = .due ∨ writerChanged w = .inFlightDue := by
  cases w with
  | clean | due => exact .inl rfl
  | inFlight | inFlightDue => exact .inr rfl

/-- R167: the status fields do not depend on what the end of an event rewrites. -/
@[simp] theorem statusFields_settleOutputs (b s : State) : statusFields (settleOutputs b s) = statusFields s := rfl

/-- R167: an event that changes a status field leaves the status writer with a write to issue. -/
theorem settleOutputs_statusDue {b s : State} (h : statusFields s ≠ statusFields b) :
    (settleOutputs b s).notice.statusWriter = .due ∨ (settleOutputs b s).notice.statusWriter = .inFlightDue := by
  obtain ⟨-, -, writer⟩ := settleOutputs_spec b s
  rw [writer, if_neg h.symm]
  exact writerChanged_due _

/-- Log 8: RESET_N_ASSERT changes no status field. -/
theorem resetNAssert_statusFields {s t : State} (h : exec .resetNAssert s = .next t) :
    statusFields t = statusFields s := by
  rw [resetNAssert_next h]
  rfl

/-- Settles O60: RESET_N_ASSERT changes no status field, and the end of every event makes a changed one due. -/
theorem statusChangeIsWritten : Obligations.StatusChangeIsWritten := by
  intro c s t hc h changed
  rcases exec_event h with rfl | rfl | ⟨u, -, rfl⟩
  · exact absurd (resetNAssert_statusFields h) changed
  · exact absurd rfl hc
  · exact settleOutputs_statusDue (by rwa [statusFields_settleOutputs] at changed)

end Sys2Proof.Machine
end

section
/-!
O10: a host write to the notice record (R10, R165, R166, R178).
-/
namespace Sys2Proof.Machine

/-- R165: the acknowledge mode is WRITE only where a shadow table says so. -/
theorem ackMode_write (s : State) : ackMode s = .write ↔ ∃ tb, s.cmd.shadow = some tb ∧ tb.ackMode = .write := by
  unfold ackMode
  cases s.cmd.shadow <;> simp

/-- R10: a write of the notice record reports its word to the notice unit alone. -/
theorem reportWatched_notice {r : Request} {w : Pixel} (hp : presentable r = true)
    (hn : wordWrittenAt r noticeRecordAddress = some w) (p : Port) (s : State) :
    reportWatched p r s = reportNoticeWrite p r w s := by
  obtain ⟨command, table⟩ := (watchPoints_apart hp).1 (by rw [writesNoticeRecord, hn]; rfl)
  simp [reportWatched, command, hn, table]

/-- R10, R165: NOTICE_RECORD_WRITE forwards its request and reports the word written. -/
theorem noticeRecordWrite_runs {p : Port} {r : Request} {w : Pixel} {s : State} (hr : Released s)
    (ht : TakesTag p r.tag s) (hf : (Instr.noticeRecordWrite p r).WellFormed)
    (hn : wordWrittenAt r noticeRecordAddress = some w) :
    exec (.noticeRecordWrite p r) s = .next (settleOutputs s (reportNoticeWrite p r w (forwarded p r s))) := by
  rw [(exec_systemWrite s).2.2 hf]
  obtain ⟨hp, ⟨-, hw⟩, -⟩ := hf
  exact (present_system hr hp ht hw).trans (by rw [reportWatched_notice hp hn])

/-- R165, R166: the notice unit after the report of a host write to the notice record: the write is outstanding, and in
WRITE mode its word is acknowledged. -/
def noticeWritten (key : Key) (w : Pixel) (mode : AckMode) (n : NoticeUnit) : NoticeUnit :=
  let n := { n with hostWrites := n.hostWrites ++ [key] }
  match mode with
  | .write => acknowledgeWord w n
  | .read => n

/-- R165: the report of a host write changes the notice unit as `noticeWritten` says, and nothing else. -/
theorem reportNoticeWrite_eq (p : Port) (r : Request) (w : Pixel) (s : State) :
    reportNoticeWrite p r w s = { s with notice := noticeWritten (p, r.tag) w (ackMode s) s.notice } := by
  have mode : ∀ f, ackMode (onNotice f s) = ackMode s := fun _ => rfl
  simp only [reportNoticeWrite, mode]
  cases ackMode s <;> rfl

/-- R165, R166: the kinds that the word marks leave the set in WRITE mode alone, the notice record is marked where the
set changes, the write is outstanding, and nothing else changes. -/
theorem noticeWritten_spec (key : Key) (w : Pixel) (mode : AckMode) (n : NoticeUnit) :
    let m := noticeWritten key w mode n
    m = { n with set := m.set, noticeWriter := m.noticeWriter, hostWrites := n.hostWrites ++ [key] } ∧
      (∀ k, kindPending m.set k = true ↔
        kindPending n.set k = true ∧ ¬ (mode = .write ∧ w.getLsbD (kindNumber k) = true)) ∧
      (m.set = n.set → m.noticeWriter = n.noticeWriter) ∧
      (m.set ≠ n.set → m.noticeWriter = writerChanged n.noticeWriter) := by
  cases mode with
  | write =>
    obtain ⟨frame, kinds, same, changed⟩ := acknowledgeWord_spec w { n with hostWrites := n.hostWrites ++ [key] }
    exact ⟨frame, fun k => (kinds k).trans (by simp only [true_and]), same, changed⟩
  | read => exact ⟨rfl, by simp [noticeWritten], fun _ => rfl, fun h => absurd rfl h⟩

/-- Settles O10: the request is forwarded and its word reported (`noticeRecordWrite_runs`), which leaves the notice unit
as `noticeWritten_spec` says until the end of the event. -/
theorem noticeRecordWriteAcknowledges : Obligations.NoticeRecordWriteAcknowledges := by
  intro p r w s hr ht hf hn
  obtain ⟨frame, kinds, same, changed⟩ := noticeWritten_spec (p, r.tag) w (ackMode s) s.notice
  have runs := noticeRecordWrite_runs hr ht hf hn
  have mode : ackMode (forwarded p r s) = ackMode s := by simp only [ackMode, forwarded_cmd]
  rw [reportNoticeWrite_eq, mode, forwarded_notice] at runs
  obtain ⟨settled, kept, -⟩ :=
    settleOutputs_spec s { forwarded p r s with notice := noticeWritten (p, r.tag) w (ackMode s) s.notice }
  refine ⟨_, runs, settled, ?_, fun k => ?_, ?_, ?_⟩
  · rw [settleOutputs_set, settleOutputs_noticeWriter, ← frame]
    exact kept
  · rw [settleOutputs_set, kinds, ackMode_write]
  · rw [settleOutputs_set, settleOutputs_noticeWriter]
    exact same
  · rw [settleOutputs_set, settleOutputs_noticeWriter]
    exact changed

end Sys2Proof.Machine
end

section
/-!
O1: what a step does with the queue of commands waiting (log 4).
-/
namespace Sys2Proof.Machine

/-- The front command runs with the queue's rest left waiting; the command itself is no longer in the queue. -/
theorem step_front (c : Instr) (rest : List Instr) (s : State) :
    step { s with pending := c :: rest } = exec c { s with pending := rest } := rfl

/-- Log 4: with no command waiting the part idles. -/
theorem step_empty {s : State} (h : s.pending = []) : step s = .next s := by
  unfold step
  rw [h]

/-- Settles O1: the two cases of the queue are `step_front` and `step_empty`. -/
theorem stepRunsTheFrontCommand : Obligations.StepRunsTheFrontCommand := by
  unfold Obligations.StepRunsTheFrontCommand
  exact ⟨step_front, fun _ empty => step_empty empty⟩

end Sys2Proof.Machine
end
